-- ==== Sys2Proof/Word.lean ====
section
/-! DEFINITION. The word types of the machine and the indexes into its register file. -/

namespace Sys2Proof

/-- An unsigned 8-bit value: a register, a timer, a memory byte (R7, R21, R30). -/
abbrev Byte := BitVec 8

/-- An unsigned 16-bit value: `I`, `PC`, a stack entry, an opcode (R7, R25, R29, R31). -/
abbrev Word := BitVec 16

/-- The 12-bit address field of an instruction (R9, R72). -/
abbrev Addr12 := BitVec 12

/-- One display row: bit c is the pixel at column c (R32). -/
abbrev Row := BitVec 64

/-- A general register's index 0..15; in range by construction (R21). -/
abbrev Reg := Fin 16

/-- A value of a 4-bit count or of a key code, 0..15 (R9, R39). -/
abbrev Nibble := Fin 16

/-- VF, the flag register (R22, R24). -/
abbrev VF : Reg := 15

end Sys2Proof
end

