-- ==== Sys2Proof/Config.lean ====
section
/-! DEFINITION. What one instance of the block fixes: the fixed parameters of R6 as constants, the configurable ones
as a record with the spec's defaults, and the free value (the inputs nobody has supplied yet) as an opaque constant. -/

namespace Sys2Proof

namespace Config

/-- MEM_SIZE (R6, R33). -/
def memSize : Nat := 4096

/-- PROG_BASE: where a ROM is loaded (R6, R243). -/
def progBase : Nat := 0x200

/-- FONT_BASE: where the font table is loaded (R6, R59). -/
def fontBase : Nat := 0x000

/-- FONT_LEN: 16 glyphs of 5 bytes (R6, R244). -/
def fontLen : Nat := 80

/-- The bytes of one glyph (R198). -/
def glyphLen : Nat := 5

/-- PC_RESET (R6, R25, R36). -/
def pcReset : Word := 0x200#16

/-- DISP_COLS (R6, R32). -/
def dispCols : Nat := 64

/-- DISP_ROWS (R6, R32). -/
def dispRows : Nat := 32

/-- The bytes of an instruction (R70). -/
def instrLen : Nat := 2

end Config

/-- DRAW_BOTTOM (R6, R156): what Draw does with sprite rows past row 31. -/
inductive DrawBottom where
  /-- The rows are dropped (the default). -/
  | clip
  /-- Draw ends in `DisplayRowOutOfRange`. -/
  | fault
  deriving DecidableEq, Repr

/-- The configurable parameters of R6 (92_eei_decisions.md, "Parameters left OPEN"). -/
structure Params where
  /-- STACK_DEPTH. -/
  stackDepth : Nat
  /-- RET_EMPTY_PC. -/
  retEmptyPc : Word
  /-- DRAW_BOTTOM. -/
  drawBottom : DrawBottom
  /-- FONT_TABLE. -/
  fontTable : Vector Byte 80
  deriving DecidableEq, Repr

/-- The glyphs of the digits 0 to 7 (R244). -/
def Config.fontLow : List Byte :=
  [0xF0, 0x90, 0x90, 0x90, 0xF0,  0x20, 0x60, 0x20, 0x20, 0x70,
   0xF0, 0x10, 0xF0, 0x80, 0xF0,  0xF0, 0x10, 0xF0, 0x10, 0xF0,
   0x90, 0x90, 0xF0, 0x10, 0x10,  0xF0, 0x80, 0xF0, 0x10, 0xF0,
   0xF0, 0x80, 0xF0, 0x90, 0xF0,  0xF0, 0x10, 0x20, 0x40, 0x40]

/-- The glyphs of the digits 8 to F (R244). -/
def Config.fontHigh : List Byte :=
  [0xF0, 0x90, 0xF0, 0x90, 0xF0,  0xF0, 0x90, 0xF0, 0x10, 0xF0,
   0xF0, 0x90, 0xF0, 0x90, 0x90,  0xE0, 0x90, 0xE0, 0x90, 0xE0,
   0xF0, 0x80, 0x80, 0x80, 0xF0,  0xE0, 0x90, 0x90, 0x90, 0xE0,
   0xF0, 0x80, 0xF0, 0x80, 0xF0,  0xF0, 0x80, 0xF0, 0x80, 0x80]

/-- The default font table (R244; PRESUMED by the spec from general knowledge, log entry 10). -/
def Config.defaultFont : Vector Byte 80 := ⟨(Config.fontLow ++ Config.fontHigh).toArray, rfl⟩

/-- The defaults of R6 (log entry 5). -/
def Params.default : Params where
  stackDepth := 16
  retEmptyPc := 0x200#16
  drawBottom := .clip
  fontTable := Config.defaultFont

/-- The three inputs of one step (R38). -/
structure StepInput where
  /-- `in.key`: none, or the code 0..15 of the one reported key (R39). -/
  key : Option Nibble
  /-- `in.ticks`: the 60 Hz intervals since the last step (R40). -/
  ticks : Nat
  /-- `in.rnd`: the random byte (R41). -/
  rnd : Byte
  deriving DecidableEq, Repr, Inhabited

/-- FREE VALUE (log entry 1): the inputs of the k-th step for which the host has supplied none. Nothing is known of it:
the inputs are free draws under no law (R39, R40, R41, R108). -/
opaque Config.freeInput : Nat → StepInput

end Sys2Proof
end

