-- ==== Sys2Proof/Machine/State.lean ====
section
/-! DEFINITION. The state of the block (R20), why a step can stop, and the state after reset (R37, R240). -/

namespace Sys2Proof.Machine

/-- The memory `M` (R33, R50): the bytes that differ from what an unlisted address reads as, at strictly rising addresses
(log entry 8). -/
abbrev Memory := List Host.Cell

/-- The fault kinds of R210, each with what its record carries. A step that raises one answers `Fault.raised`; every one is
SAFE: it stops where the spec says the machine stops. -/
inductive FaultRecord where
  /-- Code 1. Raised by a step whose fetched opcode fails to decode; carries the opcode and the fetch address (R104, R211). -/
  | invalidInstruction (opcode address : Word)
  /-- Code 2. Never raised: the hardware is complete (R212). -/
  | instructionNotImplemented
  /-- Code 3. Answered by `loadImage` only, never by a step and never latched; carries the length (R213). -/
  | romTooBig (len : Nat)
  /-- Code 4. Raised by the fetch, Draw, LoadMemoryRegisters, LoadRegistersMemory and StoreBcd; carries the first address
  of the access and its length (R214). -/
  | addressOutOfRange (addr len : Nat)
  /-- Code 5. Raised by SubroutineCall on a full stack; carries the return address that was not pushed (R217). -/
  | stackOverflow (ret : Word)
  /-- Code 6. Raised by Draw past the bottom edge, only when DRAW_BOTTOM is `fault`; carries the start row and the
  count (R215). -/
  | displayRowOutOfRange (y0 n : Nat)
  deriving DecidableEq, Repr

/-- Everything the spec gives the machine (R20), the parameters of the instance (R6, log entry 5), and the signals of a
step (R38, log entries 1 to 3), which are the model's own fields. -/
structure State where
  /-- `V[0]`..`V[15]` (R21). -/
  v : Vector Byte 16
  /-- `I` (R29). -/
  i : Word
  /-- `PC` (R25). -/
  pc : Word
  /-- `DT` (R30). -/
  dt : Byte
  /-- `ST` (R30). -/
  st : Byte
  /-- `S[0]`..`S[SP-1]`, oldest first (R31); `SP` is its length. -/
  stack : List Word
  /-- `M` (R33). -/
  mem : Memory
  /-- `D[0]`..`D[31]` (R32). -/
  display : Vector Row 32
  /-- The fault latch `F` (R216). -/
  fault : Option FaultRecord
  /-- The configurable parameters (R6); no step changes them. -/
  params : Params
  /-- The inputs sampled by the step under way (R38). -/
  input : StepInput
  /-- The inputs the host has supplied for the coming steps, oldest first (R38). -/
  pending : List StepInput
  /-- How many steps took free inputs (log entry 1). -/
  drawn : Nat
  /-- `out.flush` of the last step (R42). -/
  flush : Bool
  deriving DecidableEq, Repr

/-- How a step stops with a fault. -/
inductive Fault where
  /-- `raise` (R216): the step returned this record (R44) and left the block in this state, whose latch holds the record.
  Raised by the fetch, by a decode failure, and by the meanings of Draw, LoadMemoryRegisters, LoadRegistersMemory, StoreBcd
  and SubroutineCall. SAFE: the spec's own stop, with the state the spec gives (log entry 6). -/
  | raised (record : FaultRecord) (after : State)
  deriving DecidableEq, Repr

/-- Why a step is refused. -/
inductive Refusal where
  /-- No meaning for the instruction yet; answered by an arm of `exec` only. SAFE. -/
  | notModelled (mnemonic : String)
  /-- The latch holds this record: the step is refused and changes nothing (R109). Answered by `step` only. SAFE: it is
  what the spec's Step returns (log entry 7). -/
  | faultLatched (record : FaultRecord)
  deriving DecidableEq, Repr

/-- What a step answers: `next` is the spec's `ok`, `fault` its fault record, `refused` its `refused` (R44, R100). -/
abbrev Result := Host.Outcome State Fault Refusal

/-- The state after reset (R37, R240): PC and the display as the source says, everything else zero, empty or none (the
spec's decision D11, log entry 4); the parameters at their defaults (log entry 5); the model's own fields as log
entries 2 and 3 say. -/
def State.reset : State where
  v := Vector.replicate 16 0
  i := 0
  pc := Config.pcReset
  dt := 0
  st := 0
  stack := []
  mem := []
  display := Vector.replicate 32 0
  fault := none
  params := Params.default
  input := ⟨none, 0, 0⟩
  pending := []
  drawn := 0
  flush := false

end Sys2Proof.Machine
end

