-- ==== Sys2Proof/Machine/Flags.lean ====
section
/-! DEFINITION. The 8-bit arithmetic and every value an instruction writes to VF as a flag (R24, R174). -/

namespace Sys2Proof.Machine

/-- A flag as VF holds it: 0 or 1 (R24). -/
def flagByte (c : Bool) : Byte := if c then 1 else 0

/-- Wrapping 8-bit addition: the exact sum, truncated (R170, R171, R174). -/
def addWrap (a b : Byte) : Byte := BitVec.ofNat 8 (a.toNat + b.toNat)

/-- The carry out of bit 7 (R170, R171). -/
def carryOut (a b : Byte) : Bool := 255 < a.toNat + b.toNat

/-- Wrapping 8-bit subtraction: the exact difference, truncated (R172, R173, R174). -/
def subWrap (a b : Byte) : Byte := BitVec.ofInt 8 ((a.toNat : Int) - (b.toNat : Int))

/-- NOT-borrow of `a - b`: the minuend is not less than the subtrahend (R172, R173; 90_conflicts.md C1). -/
def notBorrow (a b : Byte) : Bool := b.toNat ≤ a.toNat

/-- The logical shift right by 1: a zero enters at bit 7 (R184). -/
def shiftRight1 (a : Byte) : Byte := a >>> 1

/-- The bit a right shift puts out: bit 0 before the shift (R184). -/
def lowBit (a : Byte) : Bool := a.getLsbD 0

/-- The shift left by 1, truncated: a zero enters at bit 0 (R185). -/
def shiftLeft1 (a : Byte) : Byte := a <<< 1

/-- The bit a left shift puts out: bit 7 before the shift (R185). -/
def highBit (a : Byte) : Bool := a.getLsbD 7

end Sys2Proof.Machine
end

