-- ==== Sys2Proof/Machine/Ops.lean ====
section
/-! DEFINITION. The named operations on registers, memory, the call stack and the fault latch. -/

namespace Sys2Proof.Machine

/-! ## Memory (R50 to R53; log entry 8) -/

/-- What an unlisted address reads as: the reset contents (R37, R240). -/
def Memory.unlisted : Byte := 0

/-- `M[a]`. -/
def Memory.read : Memory → Nat → Byte
  | [], _ => Memory.unlisted
  | (k, b) :: m, a => if k = a then b else Memory.read m a

/-- `M[a] <- b`, keeping the canonical form. -/
def Memory.write : Memory → Nat → Byte → Memory
  | [], a, b => if b = Memory.unlisted then [] else [(a, b)]
  | (k, c) :: m, a, b =>
    if a < k then
      if b = Memory.unlisted then (k, c) :: m else (a, b) :: (k, c) :: m
    else if a = k then
      if b = Memory.unlisted then m else (a, b) :: m
    else (k, c) :: Memory.write m a b

/-- `M[a + k] <- v[k]`, lowest address first (R53). -/
def Memory.writeAll : Memory → Nat → List Byte → Memory
  | m, _, [] => m
  | m, a, b :: bs => Memory.writeAll (m.write a b) (a + 1) bs

/-- The canonical form: addresses inside `M`, strictly rising, and no byte equal to what an unlisted address reads as. -/
abbrev Memory.wf (m : Memory) : Prop :=
  m.Pairwise (fun p q => p.1 < q.1) ∧ ∀ p ∈ m, p.1 < Config.memSize ∧ p.2 ≠ Memory.unlisted

/-- An access of `n` bytes at `addr` lies in 0..4095 (R51, R52); an access of no bytes is not checked. -/
def inRange (addr n : Nat) : Bool := n = 0 || addr + n ≤ Config.memSize

/-- `MemRead(addr, n)` (R52): the bytes, lowest address first; none where it raises `AddressOutOfRange`. -/
def memRead (m : Memory) (addr n : Nat) : Option (List Byte) :=
  if inRange addr n then some ((List.range n).map fun k => m.read (addr + k)) else none

/-- `MemWrite(addr, n, v)` with n the length of v (R53); none, and no byte written, where it raises
`AddressOutOfRange`. -/
def memWrite (m : Memory) (addr : Nat) (v : List Byte) : Option Memory :=
  if inRange addr v.length then some (m.writeAll addr v) else none

/-- The byte at an address of the state's memory (R43: the host may read it between steps). -/
def State.readByte (s : State) (a : Nat) : Byte := s.mem.read a

/-! ## Registers (R21, R25, R29, R30) -/

/-- `V[r]`. -/
def State.getV (s : State) (r : Reg) : Byte := s.v[r]

/-- `V[r] <- b`: no register is hard-wired (R21). -/
def State.setV (s : State) (r : Reg) (b : Byte) : State := { s with v := s.v.set r b }

/-- `V[k], V[k+1], ... <- bytes` (R144). -/
def State.setVFrom : State → Nat → List Byte → State
  | s, _, [] => s
  | s, k, b :: bs => State.setVFrom (if h : k < 16 then s.setV ⟨k, h⟩ b else s) (k + 1) bs

/-- `I <- w`. -/
def State.setI (s : State) (w : Word) : State := { s with i := w }

/-- `PC <- w`. -/
def State.setPc (s : State) (w : Word) : State := { s with pc := w }

/-- `DT <- b`. -/
def State.setDt (s : State) (b : Byte) : State := { s with dt := b }

/-- `ST <- b`. -/
def State.setSt (s : State) (b : Byte) : State := { s with st := b }

/-- The memory becomes `m`. -/
def State.setMem (s : State) (m : Memory) : State := { s with mem := m }

/-- The display becomes `d`. -/
def State.setDisplay (s : State) (d : Vector Row 32) : State := { s with display := d }

/-- `out.flush <- b` (R42). -/
def State.setFlush (s : State) (b : Bool) : State := { s with flush := b }

/-! ## The program counter (R26, R103) -/

/-- `PC <- PC + 2`: the advance of R103 and the extra advance of a skip. -/
def State.advance (s : State) : State := s.setPc (s.pc + 2)

/-- `PC <- PC - 2`: WaitKey stays on itself (R194). -/
def State.retreat (s : State) : State := s.setPc (s.pc - 2)

/-- The extra advance of a skip whose condition is `c` (R124). -/
def State.skipIf (s : State) (c : Bool) : State := if c then s.advance else s

/-! ## The call stack (R31) -/

/-- `SP`. -/
def State.sp (s : State) : Nat := s.stack.length

/-- The stack becomes `l`. -/
def State.setStack (s : State) (l : List Word) : State := { s with stack := l }

/-- `Push(v)`; none where it raises `StackOverflow`. -/
def State.push (s : State) (v : Word) : Option State :=
  if s.sp < s.params.stackDepth then some (s.setStack (s.stack ++ [v])) else none

/-- `Pop()`: the top entry and the state without it; none on an empty stack. -/
def State.pop (s : State) : Option (Word × State) :=
  match s.stack.getLast? with
  | some r => some (r, s.setStack s.stack.dropLast)
  | none => none

/-! ## Taking a fault (R216) -/

/-- `F <- some (Fault, info)`. -/
def State.latch (s : State) (r : FaultRecord) : State := { s with fault := some r }

/-- `raise <Fault>(info)` (R216): the step ends here, the latch is set, and what the step wrote before stays. Nothing is
saved for a handler and control goes nowhere (R221); there is no return from a fault, only `hostReset` clears the
latch (R222, R241). -/
def raise (r : FaultRecord) (s : State) : Result := .fault (.raised r (s.latch r))

/-- The numeric code of a fault kind (R210). -/
def FaultRecord.code : FaultRecord → Nat
  | .invalidInstruction _ _ => 1
  | .instructionNotImplemented => 2
  | .romTooBig _ => 3
  | .addressOutOfRange _ _ => 4
  | .stackOverflow _ => 5
  | .displayRowOutOfRange _ _ => 6

end Sys2Proof.Machine
end

