-- ==== Sys2Proof/Machine/Operands.lean ====
section
/-! DEFINITION. The values the instructions compute from their operands: zero extensions, register lists, key
comparisons, decimal digits, glyph addresses and display coordinates. -/

namespace Sys2Proof.Machine

/-- `zext_16` of an address field (R72). -/
def zextAddr (a : Addr12) : Word := a.setWidth 16

/-- `zext_16` of a byte (R128, R197). -/
def zextByte (b : Byte) : Word := b.setWidth 16

/-- `zext_8` of a key code (R191, R194). -/
def keyByte (k : Nibble) : Byte := BitVec.ofNat 8 k.val

/-- The reported key is the one whose code is the whole byte `vx` (R191; D19). -/
def keyIs (key : Option Nibble) (vx : Byte) : Bool :=
  match key with
  | some k => keyByte k = vx
  | none => false

/-- `[V[0], ..., V[x]]` (R143). -/
def firstRegs (s : State) (x : Reg) : List Byte := s.v.toList.take (x.val + 1)

/-- The decimal digits of a byte, hundreds first (R199). -/
def bcdDigits (b : Byte) : List Byte :=
  [BitVec.ofNat 8 (b.toNat / 100), BitVec.ofNat 8 (b.toNat / 10 % 10), BitVec.ofNat 8 (b.toNat % 10)]

/-- The address of the glyph of the digit in `b`: FONT_BASE + 5 * b on the whole byte (R198; D20). -/
def glyphAddr (b : Byte) : Word := BitVec.ofNat 16 (Config.fontBase + Config.glyphLen * b.toNat)

/-- The start column of a sprite (R153). -/
def originCol (px : Byte) : Nat := px.toNat % Config.dispCols

/-- The start row of a sprite (R153). -/
def originRow (py : Byte) : Nat := py.toNat % Config.dispRows

/-- `rev8` (R8): bit j is bit 7 - j. -/
def rev8 (b : Byte) : Byte := b.reverse

/-- A sprite byte moved to its columns and truncated to the row (R152, R154, R155). -/
def spriteRow (b : Byte) (x0 : Nat) : Row := (rev8 b).setWidth 64 <<< x0

end Sys2Proof.Machine
end

