-- ==== Sys2Proof/Machine/Arithmetic.lean ====
section
/-! DEFINITION. Arithmetic (44_arithmetic.md). The operands are sampled before any write; when x = 15 the later of the two
writes remains (R106, R169; D13). -/

namespace Sys2Proof.Machine

/-- `Vx` takes the sum, then VF the carry (R170, R171). -/
def addInto (x : Reg) (a b : Byte) (s : State) : Result :=
  .next ((s.setV x (addWrap a b)).setV VF (flagByte (carryOut a b)))

/-- VF takes the NOT-borrow of `a - b`, then `Vx` the difference (R172, R173). -/
def subInto (x : Reg) (a b : Byte) (s : State) : Result :=
  .next ((s.setV VF (flagByte (notBorrow a b))).setV x (subWrap a b))

/-- R170: VF is written (90_conflicts.md C10). -/
def execAddImm (x : Reg) (kk : Byte) (s : State) : Result := addInto x (s.getV x) kk s

/-- R171. -/
def execAddReg (x y : Reg) (s : State) : Result := addInto x (s.getV x) (s.getV y) s

/-- R172 (90_conflicts.md C1). -/
def execSubtractReg (x y : Reg) (s : State) : Result := subInto x (s.getV x) (s.getV y) s

/-- R173. -/
def execSubtractRegReverse (x y : Reg) (s : State) : Result := subInto x (s.getV y) (s.getV x) s

end Sys2Proof.Machine
end

