-- ==== Sys2Proof/Machine/ControlFlow.lean ====
section
/-! DEFINITION. Control flow (41_control_flow.md). In every meaning `PC` already holds the fetch address plus 2 (R103, R120). -/

namespace Sys2Proof.Machine

/-- R121. -/
def execSubroutineReturn (s : State) : Result :=
  match s.pop with
  | none => .next (s.setPc s.params.retEmptyPc)
  | some (r, s') => .next (s'.setPc r)

/-- R122. -/
def execJump (addr : Addr12) (s : State) : Result := .next (s.setPc (zextAddr addr))

/-- R123. -/
def execSubroutineCall (addr : Addr12) (s : State) : Result :=
  match s.push s.pc with
  | none => raise (.stackOverflow s.pc) s
  | some s' => .next (s'.setPc (zextAddr addr))

/-- R124. -/
def execSkipIfEqualImm (x : Reg) (kk : Byte) (s : State) : Result := .next (s.skipIf (s.getV x = kk))

/-- R125. -/
def execSkipIfNotEqualImm (x : Reg) (kk : Byte) (s : State) : Result := .next (s.skipIf (s.getV x ≠ kk))

/-- R126. -/
def execSkipIfEqualReg (x y : Reg) (s : State) : Result := .next (s.skipIf (s.getV x = s.getV y))

/-- R127. -/
def execSkipIfNotEqualReg (x y : Reg) (s : State) : Result := .next (s.skipIf (s.getV x ≠ s.getV y))

/-- R128: the sum is not masked. -/
def execJumpOffset (addr : Addr12) (s : State) : Result :=
  .next (s.setPc (zextAddr addr + zextByte (s.getV 0)))

end Sys2Proof.Machine
end

