-- ==== Sys2Proof/Machine/Display.lean ====
section
/-! DEFINITION. The display buffer, the sprite compositor and the display instructions (43_display.md). -/

namespace Sys2Proof.Machine

/-- `Clear()` (R159). -/
def clearDisplay : Vector Row 32 := Vector.replicate 32 0

/-- One row of `WriteSprite` (R152): XOR `shifted` into row `r` and say whether it collided (R157); a row past 31 is
dropped (R156). -/
def drawRow (d : Vector Row 32) (r : Nat) (shifted : Row) : Vector Row 32 × Bool :=
  if h : r < 32 then (d.set r (d[r] ^^^ shifted), d[r] &&& shifted != 0) else (d, false)

/-- The rows of `WriteSprite` from row `r` on, with the start column already normalised (R152). -/
def drawRows (x0 : Nat) : Vector Row 32 → Nat → List Byte → Vector Row 32 × Bool
  | d, _, [] => (d, false)
  | d, r, b :: bs =>
    let first := drawRow d r (spriteRow b x0)
    let rest := drawRows x0 first.1 (r + 1) bs
    (rest.1, first.2 || rest.2)

/-- `WriteSprite(px, py, bytes)` (R152): the display afterwards, and whether any drawn row collided. -/
def writeSprite (d : Vector Row 32) (px py : Byte) (bytes : List Byte) : Vector Row 32 × Bool :=
  drawRows (originCol px) d (originRow py) bytes

/-- A sprite of `n` rows at start row `y0` passes the bottom edge (R156, R215). -/
def passesBottom (y0 n : Nat) : Bool := 1 ≤ n && 31 < y0 + n - 1

/-- The pixel at column `c` of row `r` (R32, R43). -/
def State.pixel (s : State) (r : Fin 32) (c : Nat) : Bool := (s.display[r]).getLsbD c

/-- R150: neither VF nor the flush output is written. -/
def execClearScreen (s : State) : Result := .next (s.setDisplay clearDisplay)

/-- R151, with both settings of DRAW_BOTTOM (R156, R215). -/
def execDraw (x y : Reg) (n : Nibble) (s : State) : Result :=
  match memRead s.mem s.i.toNat n.val with
  | none => raise (.addressOutOfRange s.i.toNat n.val) s
  | some sprite =>
    if s.params.drawBottom = .fault ∧ passesBottom (originRow (s.getV y)) n.val then
      raise (.displayRowOutOfRange (originRow (s.getV y)) n.val) s
    else
      let drawn := writeSprite s.display (s.getV x) (s.getV y) sprite
      .next (((s.setDisplay drawn.1).setV VF (flagByte drawn.2)).setFlush true)

end Sys2Proof.Machine
end

