-- ==== Sys2Proof/Machine/LoadStore.lean ====
section
/-! DEFINITION. Loads and stores (42_memory_ops.md). -/

namespace Sys2Proof.Machine

/-- R140. -/
def execLoadRegImm (x : Reg) (kk : Byte) (s : State) : Result := .next (s.setV x kk)

/-- R141. -/
def execLoadRegReg (x y : Reg) (s : State) : Result := .next (s.setV x (s.getV y))

/-- R142. -/
def execLoadAddress (addr : Addr12) (s : State) : Result := .next (s.setI (zextAddr addr))

/-- The store both storing instructions perform: `MemWrite(I, n, bytes)` (R53, R143, R199). -/
def storeAtI (bytes : List Byte) (s : State) : Result :=
  match memWrite s.mem s.i.toNat bytes with
  | none => raise (.addressOutOfRange s.i.toNat bytes.length) s
  | some m => .next (s.setMem m)

/-- R143. -/
def execLoadMemoryRegisters (x : Reg) (s : State) : Result := storeAtI (firstRegs s x) s

/-- R144: all bytes are read before a register is written. -/
def execLoadRegistersMemory (x : Reg) (s : State) : Result :=
  match memRead s.mem s.i.toNat (x.val + 1) with
  | none => raise (.addressOutOfRange s.i.toNat (x.val + 1)) s
  | some bytes => .next (s.setVFrom 0 bytes)

end Sys2Proof.Machine
end

