-- ==== Sys2Proof/Machine/Logic.lean ====
section
/-! DEFINITION. Logic and shifts (45_logic.md). -/

namespace Sys2Proof.Machine

/-- R181. -/
def execOrReg (x y : Reg) (s : State) : Result := .next (s.setV x (s.getV x ||| s.getV y))

/-- R182. -/
def execAndReg (x y : Reg) (s : State) : Result := .next (s.setV x (s.getV x &&& s.getV y))

/-- R183. -/
def execXorReg (x y : Reg) (s : State) : Result := .next (s.setV x (s.getV x ^^^ s.getV y))

/-- VF takes the bit shifted out, then `Vx` the shifted value (R184, R185; D13). -/
def shiftInto (x : Reg) (out : Bool) (result : Byte) (s : State) : Result :=
  .next ((s.setV VF (flagByte out)).setV x result)

/-- R184: in place on `Vx`; `y` is ignored (R82). -/
def execShiftRight (x _y : Reg) (s : State) : Result :=
  shiftInto x (lowBit (s.getV x)) (shiftRight1 (s.getV x)) s

/-- R185: in place on `Vx`; `y` is ignored (R82). -/
def execShiftLeft (x _y : Reg) (s : State) : Result :=
  shiftInto x (highBit (s.getV x)) (shiftLeft1 (s.getV x)) s

end Sys2Proof.Machine
end

