-- ==== Sys2Proof/Machine/Misc.lean ====
section
/-! DEFINITION. Random, keypad, timers, address register and BCD (46_misc_timer_key.md). -/

namespace Sys2Proof.Machine

/-- R190. -/
def execRandom (x : Reg) (kk : Byte) (s : State) : Result := .next (s.setV x (s.input.rnd &&& kk))

/-- R191. -/
def execSkipIfKeyPressed (x : Reg) (s : State) : Result := .next (s.skipIf (keyIs s.input.key (s.getV x)))

/-- R192: the exact negation of R191. -/
def execSkipIfKeyNotPressed (x : Reg) (s : State) : Result := .next (s.skipIf (!keyIs s.input.key (s.getV x)))

/-- R193. -/
def execLoadRegDelay (x : Reg) (s : State) : Result := .next (s.setV x s.dt)

/-- R194: a non-blocking poll; with no key the instruction is retried at the next step. -/
def execWaitKey (x : Reg) (s : State) : Result :=
  .next (match s.input.key with
    | some k => s.setV x (keyByte k)
    | none => s.retreat)

/-- R195. -/
def execLoadDelayReg (x : Reg) (s : State) : Result := .next (s.setDt (s.getV x))

/-- R196. -/
def execLoadSoundReg (x : Reg) (s : State) : Result := .next (s.setSt (s.getV x))

/-- R197: modulo 65536; VF is not written. -/
def execAddAddress (x : Reg) (s : State) : Result := .next (s.setI (s.i + zextByte (s.getV x)))

/-- R198. -/
def execLoadDigitSprite (x : Reg) (s : State) : Result := .next (s.setI (glyphAddr (s.getV x)))

/-- R199. -/
def execStoreBcd (x : Reg) (s : State) : Result := storeAtI (bcdDigits (s.getV x)) s

end Sys2Proof.Machine
end

