-- ==== Sys2Proof/Syntax.lean ====
section
/-! DEFINITION. The instructions (one constructor per row of spec/opcode_table.json, R75, R76) and the spec's own
assembly notation for them (R85, R86), as structured lines. -/

namespace Sys2Proof

/-- An instruction with its decoded operand fields (R9, R75, R76): the register indexes `x` and `y`, the immediate `kk`,
the address `addr`, the count `n`. -/
inductive Instr where
  /-- ClearScreen, 00E0 (R150). -/
  | clearScreen
  /-- SubroutineReturn, 00EE (R121). -/
  | subroutineReturn
  /-- Jump, 1nnn (R122). -/
  | jump (addr : Addr12)
  /-- SubroutineCall, 2nnn (R123). -/
  | subroutineCall (addr : Addr12)
  /-- SkipIfEqualImm, 3xkk (R124). -/
  | skipIfEqualImm (x : Reg) (kk : Byte)
  /-- SkipIfNotEqualImm, 4xkk (R125). -/
  | skipIfNotEqualImm (x : Reg) (kk : Byte)
  /-- SkipIfEqualReg, 5xy0 (R126). -/
  | skipIfEqualReg (x y : Reg)
  /-- LoadRegImm, 6xkk (R140). -/
  | loadRegImm (x : Reg) (kk : Byte)
  /-- AddImm, 7xkk (R170). -/
  | addImm (x : Reg) (kk : Byte)
  /-- LoadRegReg, 8xy0 (R141). -/
  | loadRegReg (x y : Reg)
  /-- OrReg, 8xy1 (R181). -/
  | orReg (x y : Reg)
  /-- AndReg, 8xy2 (R182). -/
  | andReg (x y : Reg)
  /-- XorReg, 8xy3 (R183). -/
  | xorReg (x y : Reg)
  /-- AddReg, 8xy4 (R171). -/
  | addReg (x y : Reg)
  /-- SubtractReg, 8xy5 (R172). -/
  | subtractReg (x y : Reg)
  /-- ShiftRight, 8xy6 (R184). -/
  | shiftRight (x y : Reg)
  /-- SubtractRegReverse, 8xy7 (R173). -/
  | subtractRegReverse (x y : Reg)
  /-- ShiftLeft, 8xyE (R185). -/
  | shiftLeft (x y : Reg)
  /-- SkipIfNotEqualReg, 9xy0 (R127). -/
  | skipIfNotEqualReg (x y : Reg)
  /-- LoadAddress, Annn (R142). -/
  | loadAddress (addr : Addr12)
  /-- JumpOffset, Bnnn (R128). -/
  | jumpOffset (addr : Addr12)
  /-- Random, Cxkk (R190). -/
  | random (x : Reg) (kk : Byte)
  /-- Draw, Dxyn (R151). -/
  | draw (x y : Reg) (n : Nibble)
  /-- SkipIfKeyPressed, Ex9E (R191). -/
  | skipIfKeyPressed (x : Reg)
  /-- SkipIfKeyNotPressed, ExA1 (R192). -/
  | skipIfKeyNotPressed (x : Reg)
  /-- LoadRegDelay, Fx07 (R193). -/
  | loadRegDelay (x : Reg)
  /-- WaitKey, Fx0A (R194). -/
  | waitKey (x : Reg)
  /-- LoadDelayReg, Fx15 (R195). -/
  | loadDelayReg (x : Reg)
  /-- LoadSoundReg, Fx18 (R196). -/
  | loadSoundReg (x : Reg)
  /-- AddAddress, Fx1E (R197). -/
  | addAddress (x : Reg)
  /-- LoadDigitSprite, Fx29 (R198). -/
  | loadDigitSprite (x : Reg)
  /-- StoreBcd, Fx33 (R199). -/
  | storeBcd (x : Reg)
  /-- LoadMemoryRegisters, Fx55 (R143). -/
  | loadMemoryRegisters (x : Reg)
  /-- LoadRegistersMemory, Fx65 (R144). -/
  | loadRegistersMemory (x : Reg)
  deriving DecidableEq, Repr

/-- The variant names alone: the mnemonics of the assembly notation (R85). -/
inductive Mnemonic where
  | clearScreen | subroutineReturn | jump | subroutineCall | skipIfEqualImm | skipIfNotEqualImm
  | skipIfEqualReg | loadRegImm | addImm | loadRegReg | orReg | andReg | xorReg | addReg | subtractReg
  | shiftRight | subtractRegReverse | shiftLeft | skipIfNotEqualReg | loadAddress | jumpOffset | random
  | draw | skipIfKeyPressed | skipIfKeyNotPressed | loadRegDelay | waitKey | loadDelayReg | loadSoundReg
  | addAddress | loadDigitSprite | storeBcd | loadMemoryRegisters | loadRegistersMemory
  deriving DecidableEq, Repr

/-- The variant name of an instruction (R75). -/
def Instr.mnemonic : Instr → Mnemonic
  | .clearScreen => .clearScreen
  | .subroutineReturn => .subroutineReturn
  | .jump _ => .jump
  | .subroutineCall _ => .subroutineCall
  | .skipIfEqualImm _ _ => .skipIfEqualImm
  | .skipIfNotEqualImm _ _ => .skipIfNotEqualImm
  | .skipIfEqualReg _ _ => .skipIfEqualReg
  | .loadRegImm _ _ => .loadRegImm
  | .addImm _ _ => .addImm
  | .loadRegReg _ _ => .loadRegReg
  | .orReg _ _ => .orReg
  | .andReg _ _ => .andReg
  | .xorReg _ _ => .xorReg
  | .addReg _ _ => .addReg
  | .subtractReg _ _ => .subtractReg
  | .shiftRight _ _ => .shiftRight
  | .subtractRegReverse _ _ => .subtractRegReverse
  | .shiftLeft _ _ => .shiftLeft
  | .skipIfNotEqualReg _ _ => .skipIfNotEqualReg
  | .loadAddress _ => .loadAddress
  | .jumpOffset _ => .jumpOffset
  | .random _ _ => .random
  | .draw _ _ _ => .draw
  | .skipIfKeyPressed _ => .skipIfKeyPressed
  | .skipIfKeyNotPressed _ => .skipIfKeyNotPressed
  | .loadRegDelay _ => .loadRegDelay
  | .waitKey _ => .waitKey
  | .loadDelayReg _ => .loadDelayReg
  | .loadSoundReg _ => .loadSoundReg
  | .addAddress _ => .addAddress
  | .loadDigitSprite _ => .loadDigitSprite
  | .storeBcd _ => .storeBcd
  | .loadMemoryRegisters _ => .loadMemoryRegisters
  | .loadRegistersMemory _ => .loadRegistersMemory

/-- An operand as written in assembly (R85): a register `V0`..`VF`, or a number. -/
inductive AsmOperand where
  /-- The register with this number. -/
  | reg (number : Nat)
  /-- An immediate, an address or a count. -/
  | num (value : Nat)
  deriving DecidableEq, Repr

/-- One instruction in assembly: a variant name and its operands, destination first (R85). -/
structure AsmLine where
  mnemonic : Mnemonic
  operands : List AsmOperand
  deriving DecidableEq, Repr

/-- One line of an assembly program (R86): an instruction, or a data byte written `byte 0x..`. -/
inductive SourceLine where
  | code (line : AsmLine)
  | data (value : Nat)
  deriving DecidableEq, Repr

end Sys2Proof
end

