-- ==== Sys2Proof/Machine/Dispatch.lean ====
section
/-! DEFINITION. `Execute` (R105): exactly the rule of the decoded variant. -/

namespace Sys2Proof.Machine

/-- Phase 5 of the step (R100, R105). -/
def exec (i : Instr) (s : State) : Host.Outcome State Fault Refusal :=
  match i with
  | .clearScreen => Sys2Proof.Machine.execClearScreen s
  | .subroutineReturn => Sys2Proof.Machine.execSubroutineReturn s
  | .jump addr => Sys2Proof.Machine.execJump addr s
  | .subroutineCall addr => Sys2Proof.Machine.execSubroutineCall addr s
  | .skipIfEqualImm x kk => Sys2Proof.Machine.execSkipIfEqualImm x kk s
  | .skipIfNotEqualImm x kk => Sys2Proof.Machine.execSkipIfNotEqualImm x kk s
  | .skipIfEqualReg x y => Sys2Proof.Machine.execSkipIfEqualReg x y s
  | .loadRegImm x kk => Sys2Proof.Machine.execLoadRegImm x kk s
  | .addImm x kk => Sys2Proof.Machine.execAddImm x kk s
  | .loadRegReg x y => Sys2Proof.Machine.execLoadRegReg x y s
  | .orReg x y => Sys2Proof.Machine.execOrReg x y s
  | .andReg x y => Sys2Proof.Machine.execAndReg x y s
  | .xorReg x y => Sys2Proof.Machine.execXorReg x y s
  | .addReg x y => Sys2Proof.Machine.execAddReg x y s
  | .subtractReg x y => Sys2Proof.Machine.execSubtractReg x y s
  | .shiftRight x y => Sys2Proof.Machine.execShiftRight x y s
  | .subtractRegReverse x y => Sys2Proof.Machine.execSubtractRegReverse x y s
  | .shiftLeft x y => Sys2Proof.Machine.execShiftLeft x y s
  | .skipIfNotEqualReg x y => Sys2Proof.Machine.execSkipIfNotEqualReg x y s
  | .loadAddress addr => Sys2Proof.Machine.execLoadAddress addr s
  | .jumpOffset addr => Sys2Proof.Machine.execJumpOffset addr s
  | .random x kk => Sys2Proof.Machine.execRandom x kk s
  | .draw x y n => Sys2Proof.Machine.execDraw x y n s
  | .skipIfKeyPressed x => Sys2Proof.Machine.execSkipIfKeyPressed x s
  | .skipIfKeyNotPressed x => Sys2Proof.Machine.execSkipIfKeyNotPressed x s
  | .loadRegDelay x => Sys2Proof.Machine.execLoadRegDelay x s
  | .waitKey x => Sys2Proof.Machine.execWaitKey x s
  | .loadDelayReg x => Sys2Proof.Machine.execLoadDelayReg x s
  | .loadSoundReg x => Sys2Proof.Machine.execLoadSoundReg x s
  | .addAddress x => Sys2Proof.Machine.execAddAddress x s
  | .loadDigitSprite x => Sys2Proof.Machine.execLoadDigitSprite x s
  | .storeBcd x => Sys2Proof.Machine.execStoreBcd x s
  | .loadMemoryRegisters x => Sys2Proof.Machine.execLoadMemoryRegisters x s
  | .loadRegistersMemory x => Sys2Proof.Machine.execLoadRegistersMemory x s

end Sys2Proof.Machine
end

