-- ==== Sys2Proof/WellFormed.lean ====
section
/-! DEFINITION. Well-formedness of what is written by hand: an assembly line, and a program. An `Instr` carries operands
that are bounded by their types ("no index can be out of range by construction", R21, R72), so every `Instr` is well formed;
what can be ill formed is a line of assembly, whose operands are plain numbers (R85). -/

namespace Sys2Proof

/-- The kinds of operand of R9. -/
inductive OperandKind where
  | reg | imm8 | addr12 | count4
  deriving DecidableEq, Repr

/-- An operand fits the field of its kind (R72: every value of every field is accepted, and no other). -/
def OperandKind.admits : OperandKind → AsmOperand → Bool
  | .reg, .reg r => r < 16
  | .imm8, .num v => v < 256
  | .addr12, .num v => v < 4096
  | .count4, .num v => v < 16
  | _, _ => false

/-- The operand kinds of each variant, in the order they are written (R71, R85); the shifts' ignored `Vy` may be left
out (R82, R85). -/
def Mnemonic.forms : Mnemonic → List (List OperandKind)
  | .clearScreen | .subroutineReturn => [[]]
  | .jump | .subroutineCall | .loadAddress | .jumpOffset => [[.addr12]]
  | .skipIfEqualImm | .skipIfNotEqualImm | .loadRegImm | .addImm | .random => [[.reg, .imm8]]
  | .skipIfEqualReg | .skipIfNotEqualReg | .loadRegReg | .orReg | .andReg | .xorReg | .addReg | .subtractReg
  | .subtractRegReverse => [[.reg, .reg]]
  | .shiftRight | .shiftLeft => [[.reg], [.reg, .reg]]
  | .draw => [[.reg, .reg, .count4]]
  | .skipIfKeyPressed | .skipIfKeyNotPressed | .loadRegDelay | .waitKey | .loadDelayReg | .loadSoundReg | .addAddress
  | .loadDigitSprite | .storeBcd | .loadMemoryRegisters | .loadRegistersMemory => [[.reg]]

/-- The operands are as many as the kinds, and each fits its kind. -/
def formAdmits : List OperandKind → List AsmOperand → Bool
  | [], [] => true
  | k :: ks, o :: os => k.admits o && formAdmits ks os
  | _, _ => false

/-- An assembly line is well formed: its operands are one of its variant's forms. -/
def AsmLine.wf (l : AsmLine) : Bool :=
  l.mnemonic.forms.any fun ks => formAdmits ks l.operands

/-- A source line is well formed: a well-formed instruction, or a data value of one byte (R86). -/
def SourceLine.wf : SourceLine → Bool
  | .code l => l.wf
  | .data v => v < 256

end Sys2Proof
end

