-- ==== Sys2Proof/Decode.lean ====
section
/-! DEFINITION. The decoder (R70 to R74), the opcode table (R76), the encoder, and the assembler and disassembler of the
spec's notation (R85, R86). -/

namespace Sys2Proof

/-! ## Fields (R7, R9, R72) -/

/-- `op[15:12]`, the family nibble (R71). -/
def fieldFamily (op : Word) : BitVec 4 := op.extractLsb' 12 4

/-- A 4-bit field as an index 0..15. -/
def indexOf (b : BitVec 4) : Fin 16 := b.toFin

/-- An index 0..15 as a 4-bit field. -/
def nibbleOf (r : Fin 16) : BitVec 4 := BitVec.ofFin r

/-- `op[11:8]`. -/
def fieldX (op : Word) : Reg := indexOf (op.extractLsb' 8 4)

/-- `op[7:4]`. -/
def fieldY (op : Word) : Reg := indexOf (op.extractLsb' 4 4)

/-- `op[3:0]`. -/
def fieldN (op : Word) : Nibble := indexOf (op.extractLsb' 0 4)

/-- `op[3:0]`, as the fixed sub-opcode nibble of the XYS format (R71). -/
def fieldSub (op : Word) : BitVec 4 := op.extractLsb' 0 4

/-- `op[7:0]`, an immediate or the fixed sub-opcode byte of the XSS format (R71). -/
def fieldKK (op : Word) : Byte := op.extractLsb' 0 8

/-- `op[11:0]`. -/
def fieldAddr (op : Word) : Addr12 := op.extractLsb' 0 12

/-- The opcode of two bytes: the byte at the lower address is the high-order byte (R55, R70). -/
def joinBytes (b0 b1 : Byte) : Word := b0 ++ b1

/-- `op[15:8]`, the byte at the lower address (R55, R70). -/
def highByte (op : Word) : Byte := op.extractLsb' 8 8

/-- `op[7:0]`, the byte at the higher address (R55, R70). -/
def lowByte (op : Word) : Byte := op.extractLsb' 0 8

/-! ## The decoder -/

/-- What the decoder answers (R73): an instruction, or the failure that carries the raw opcode. -/
inductive Decoded where
  | instr (i : Instr)
  /-- DecodeFailure(op) (R78). -/
  | failure (op : Word)
  deriving DecidableEq, Repr

/-- Family 8: the low nibble selects the member (R74). -/
def decodeFamily8 (op : Word) : Decoded :=
  match fieldSub op with
  | 0x0#4 => .instr (.loadRegReg (fieldX op) (fieldY op))
  | 0x1#4 => .instr (.orReg (fieldX op) (fieldY op))
  | 0x2#4 => .instr (.andReg (fieldX op) (fieldY op))
  | 0x3#4 => .instr (.xorReg (fieldX op) (fieldY op))
  | 0x4#4 => .instr (.addReg (fieldX op) (fieldY op))
  | 0x5#4 => .instr (.subtractReg (fieldX op) (fieldY op))
  | 0x6#4 => .instr (.shiftRight (fieldX op) (fieldY op))
  | 0x7#4 => .instr (.subtractRegReverse (fieldX op) (fieldY op))
  | 0xE#4 => .instr (.shiftLeft (fieldX op) (fieldY op))
  | _ => .failure op

/-- Family E: the second byte selects the member (R74). -/
def decodeFamilyE (op : Word) : Decoded :=
  match fieldKK op with
  | 0x9E#8 => .instr (.skipIfKeyPressed (fieldX op))
  | 0xA1#8 => .instr (.skipIfKeyNotPressed (fieldX op))
  | _ => .failure op

/-- Family F: the second byte selects the member (R74). -/
def decodeFamilyF (op : Word) : Decoded :=
  match fieldKK op with
  | 0x07#8 => .instr (.loadRegDelay (fieldX op))
  | 0x0A#8 => .instr (.waitKey (fieldX op))
  | 0x15#8 => .instr (.loadDelayReg (fieldX op))
  | 0x18#8 => .instr (.loadSoundReg (fieldX op))
  | 0x1E#8 => .instr (.addAddress (fieldX op))
  | 0x29#8 => .instr (.loadDigitSprite (fieldX op))
  | 0x33#8 => .instr (.storeBcd (fieldX op))
  | 0x55#8 => .instr (.loadMemoryRegisters (fieldX op))
  | 0x65#8 => .instr (.loadRegistersMemory (fieldX op))
  | _ => .failure op

/-- The decoder: a pure, total function of the 16-bit opcode (R73, R74). -/
def decode (op : Word) : Decoded :=
  match fieldFamily op with
  | 0x0#4 =>
    if op = 0x00E0#16 then .instr .clearScreen
    else if op = 0x00EE#16 then .instr .subroutineReturn
    else .failure op
  | 0x1#4 => .instr (.jump (fieldAddr op))
  | 0x2#4 => .instr (.subroutineCall (fieldAddr op))
  | 0x3#4 => .instr (.skipIfEqualImm (fieldX op) (fieldKK op))
  | 0x4#4 => .instr (.skipIfNotEqualImm (fieldX op) (fieldKK op))
  | 0x5#4 =>
    if fieldSub op = 0x0#4 then .instr (.skipIfEqualReg (fieldX op) (fieldY op)) else .failure op
  | 0x6#4 => .instr (.loadRegImm (fieldX op) (fieldKK op))
  | 0x7#4 => .instr (.addImm (fieldX op) (fieldKK op))
  | 0x8#4 => decodeFamily8 op
  | 0x9#4 =>
    if fieldSub op = 0x0#4 then .instr (.skipIfNotEqualReg (fieldX op) (fieldY op)) else .failure op
  | 0xA#4 => .instr (.loadAddress (fieldAddr op))
  | 0xB#4 => .instr (.jumpOffset (fieldAddr op))
  | 0xC#4 => .instr (.random (fieldX op) (fieldKK op))
  | 0xD#4 => .instr (.draw (fieldX op) (fieldY op) (fieldN op))
  | 0xE#4 => decodeFamilyE op
  | _ => decodeFamilyF op

/-- The instruction at the head of a byte sequence and the bytes after it; none when fewer than two bytes are left: every
instruction is exactly two bytes (R70). -/
def decodeBytes : List Byte → Option (Decoded × List Byte)
  | b0 :: b1 :: rest => some (decode (joinBytes b0 b1), rest)
  | _ => none

/-! ## The encoder (R71, R76) -/

/-- The ADDR format. -/
def formatAddr (f : BitVec 4) (addr : Addr12) : Word := f ++ addr

/-- The XKK format. -/
def formatXKK (f : BitVec 4) (x : Reg) (kk : Byte) : Word := f ++ nibbleOf x ++ kk

/-- The XYS and XYN formats. -/
def formatXYN (f : BitVec 4) (x y : Reg) (n : BitVec 4) : Word := f ++ nibbleOf x ++ nibbleOf y ++ n

/-- The opcode of an instruction (R71, R76). -/
def encode : Instr → Word
  | .clearScreen => 0x00E0#16
  | .subroutineReturn => 0x00EE#16
  | .jump addr => formatAddr 0x1#4 addr
  | .subroutineCall addr => formatAddr 0x2#4 addr
  | .skipIfEqualImm x kk => formatXKK 0x3#4 x kk
  | .skipIfNotEqualImm x kk => formatXKK 0x4#4 x kk
  | .skipIfEqualReg x y => formatXYN 0x5#4 x y 0x0#4
  | .loadRegImm x kk => formatXKK 0x6#4 x kk
  | .addImm x kk => formatXKK 0x7#4 x kk
  | .loadRegReg x y => formatXYN 0x8#4 x y 0x0#4
  | .orReg x y => formatXYN 0x8#4 x y 0x1#4
  | .andReg x y => formatXYN 0x8#4 x y 0x2#4
  | .xorReg x y => formatXYN 0x8#4 x y 0x3#4
  | .addReg x y => formatXYN 0x8#4 x y 0x4#4
  | .subtractReg x y => formatXYN 0x8#4 x y 0x5#4
  | .shiftRight x y => formatXYN 0x8#4 x y 0x6#4
  | .subtractRegReverse x y => formatXYN 0x8#4 x y 0x7#4
  | .shiftLeft x y => formatXYN 0x8#4 x y 0xE#4
  | .skipIfNotEqualReg x y => formatXYN 0x9#4 x y 0x0#4
  | .loadAddress addr => formatAddr 0xA#4 addr
  | .jumpOffset addr => formatAddr 0xB#4 addr
  | .random x kk => formatXKK 0xC#4 x kk
  | .draw x y n => formatXYN 0xD#4 x y (nibbleOf n)
  | .skipIfKeyPressed x => formatXKK 0xE#4 x 0x9E#8
  | .skipIfKeyNotPressed x => formatXKK 0xE#4 x 0xA1#8
  | .loadRegDelay x => formatXKK 0xF#4 x 0x07#8
  | .waitKey x => formatXKK 0xF#4 x 0x0A#8
  | .loadDelayReg x => formatXKK 0xF#4 x 0x15#8
  | .loadSoundReg x => formatXKK 0xF#4 x 0x18#8
  | .addAddress x => formatXKK 0xF#4 x 0x1E#8
  | .loadDigitSprite x => formatXKK 0xF#4 x 0x29#8
  | .storeBcd x => formatXKK 0xF#4 x 0x33#8
  | .loadMemoryRegisters x => formatXKK 0xF#4 x 0x55#8
  | .loadRegistersMemory x => formatXKK 0xF#4 x 0x65#8

/-- The two bytes of an opcode as the memory holds them, lowest address first (R55). -/
def wordBytes (op : Word) : List Byte := [highByte op, lowByte op]

/-! ## The opcode table (R76) -/

/-- A row of R76: an opcode selects it when `op & mask = pattern`. -/
structure OpcodeRow where
  mnemonic : Mnemonic
  pattern : Word
  mask : Word
  deriving DecidableEq, Repr

/-- The opcode selects the row (R76). -/
def OpcodeRow.selectedBy (row : OpcodeRow) (op : Word) : Bool := op &&& row.mask == row.pattern

/-- Rows 1 to 9 of R76. -/
def opcodeRows1to9 : List OpcodeRow :=
  [
   ⟨.clearScreen, 0x00E0#16, 0xFFFF#16⟩,
   ⟨.subroutineReturn, 0x00EE#16, 0xFFFF#16⟩,
   ⟨.jump, 0x1000#16, 0xF000#16⟩,
   ⟨.subroutineCall, 0x2000#16, 0xF000#16⟩,
   ⟨.skipIfEqualImm, 0x3000#16, 0xF000#16⟩,
   ⟨.skipIfNotEqualImm, 0x4000#16, 0xF000#16⟩,
   ⟨.skipIfEqualReg, 0x5000#16, 0xF00F#16⟩,
   ⟨.loadRegImm, 0x6000#16, 0xF000#16⟩,
   ⟨.addImm, 0x7000#16, 0xF000#16⟩
  ]

/-- Rows 10 to 23 of R76. -/
def opcodeRows10to23 : List OpcodeRow :=
  [
   ⟨.loadRegReg, 0x8000#16, 0xF00F#16⟩,
   ⟨.orReg, 0x8001#16, 0xF00F#16⟩,
   ⟨.andReg, 0x8002#16, 0xF00F#16⟩,
   ⟨.xorReg, 0x8003#16, 0xF00F#16⟩,
   ⟨.addReg, 0x8004#16, 0xF00F#16⟩,
   ⟨.subtractReg, 0x8005#16, 0xF00F#16⟩,
   ⟨.shiftRight, 0x8006#16, 0xF00F#16⟩,
   ⟨.subtractRegReverse, 0x8007#16, 0xF00F#16⟩,
   ⟨.shiftLeft, 0x800E#16, 0xF00F#16⟩,
   ⟨.skipIfNotEqualReg, 0x9000#16, 0xF00F#16⟩,
   ⟨.loadAddress, 0xA000#16, 0xF000#16⟩,
   ⟨.jumpOffset, 0xB000#16, 0xF000#16⟩,
   ⟨.random, 0xC000#16, 0xF000#16⟩,
   ⟨.draw, 0xD000#16, 0xF000#16⟩
  ]

/-- Rows 24 to 34 of R76. -/
def opcodeRows24to34 : List OpcodeRow :=
  [
   ⟨.skipIfKeyPressed, 0xE09E#16, 0xF0FF#16⟩,
   ⟨.skipIfKeyNotPressed, 0xE0A1#16, 0xF0FF#16⟩,
   ⟨.loadRegDelay, 0xF007#16, 0xF0FF#16⟩,
   ⟨.waitKey, 0xF00A#16, 0xF0FF#16⟩,
   ⟨.loadDelayReg, 0xF015#16, 0xF0FF#16⟩,
   ⟨.loadSoundReg, 0xF018#16, 0xF0FF#16⟩,
   ⟨.addAddress, 0xF01E#16, 0xF0FF#16⟩,
   ⟨.loadDigitSprite, 0xF029#16, 0xF0FF#16⟩,
   ⟨.storeBcd, 0xF033#16, 0xF0FF#16⟩,
   ⟨.loadMemoryRegisters, 0xF055#16, 0xF0FF#16⟩,
   ⟨.loadRegistersMemory, 0xF065#16, 0xF0FF#16⟩
  ]

/-- The complete opcode table (R76). -/
def opcodeTable : List OpcodeRow := opcodeRows1to9 ++ opcodeRows10to23 ++ opcodeRows24to34

/-! ## Assembly (R85, R86; log entry 19) -/

/-- A register operand (R85). -/
def AsmOperand.toReg : AsmOperand → Option Reg
  | .reg r => if h : r < 16 then some ⟨r, h⟩ else none
  | .num _ => none

/-- A count operand (R85). -/
def AsmOperand.toNibble : AsmOperand → Option Nibble
  | .num v => if h : v < 16 then some ⟨v, h⟩ else none
  | .reg _ => none

/-- An 8-bit operand (R85). -/
def AsmOperand.toByte : AsmOperand → Option Byte
  | .num v => if v < 256 then some (BitVec.ofNat 8 v) else none
  | .reg _ => none

/-- A 12-bit operand (R85). -/
def AsmOperand.toAddr : AsmOperand → Option Addr12
  | .num v => if v < 4096 then some (BitVec.ofNat 12 v) else none
  | .reg _ => none

/-- Operands of the FIXED format. -/
def asmFixed (i : Instr) : List AsmOperand → Option Instr
  | [] => some i
  | _ => none

/-- Operands of the ADDR format. -/
def asmAddr (c : Addr12 → Instr) : List AsmOperand → Option Instr
  | [a] => a.toAddr.map c
  | _ => none

/-- Operands of the XKK format. -/
def asmXKK (c : Reg → Byte → Instr) : List AsmOperand → Option Instr
  | [x, kk] => x.toReg.bind fun x => kk.toByte.map (c x)
  | _ => none

/-- Operands of the XYS format. -/
def asmXY (c : Reg → Reg → Instr) : List AsmOperand → Option Instr
  | [x, y] => x.toReg.bind fun x => y.toReg.map (c x)
  | _ => none

/-- Operands of a shift: the ignored `y` is encoded as 0 when it is not written (R85). -/
def asmShift (c : Reg → Reg → Instr) : List AsmOperand → Option Instr
  | [x] => x.toReg.map fun x => c x 0
  | ops => asmXY c ops

/-- Operands of the XYN format. -/
def asmXYN (c : Reg → Reg → Nibble → Instr) : List AsmOperand → Option Instr
  | [x, y, n] => x.toReg.bind fun x => y.toReg.bind fun y => n.toNibble.map (c x y)
  | _ => none

/-- Operands of the XSS format. -/
def asmX (c : Reg → Instr) : List AsmOperand → Option Instr
  | [x] => x.toReg.map c
  | _ => none

/-- The instruction of an assembly line; none when the line is ill formed (R85). -/
def assemble (l : AsmLine) : Option Instr :=
  match l.mnemonic with
  | .clearScreen => asmFixed .clearScreen l.operands
  | .subroutineReturn => asmFixed .subroutineReturn l.operands
  | .jump => asmAddr .jump l.operands
  | .subroutineCall => asmAddr .subroutineCall l.operands
  | .skipIfEqualImm => asmXKK .skipIfEqualImm l.operands
  | .skipIfNotEqualImm => asmXKK .skipIfNotEqualImm l.operands
  | .skipIfEqualReg => asmXY .skipIfEqualReg l.operands
  | .loadRegImm => asmXKK .loadRegImm l.operands
  | .addImm => asmXKK .addImm l.operands
  | .loadRegReg => asmXY .loadRegReg l.operands
  | .orReg => asmXY .orReg l.operands
  | .andReg => asmXY .andReg l.operands
  | .xorReg => asmXY .xorReg l.operands
  | .addReg => asmXY .addReg l.operands
  | .subtractReg => asmXY .subtractReg l.operands
  | .shiftRight => asmShift .shiftRight l.operands
  | .subtractRegReverse => asmXY .subtractRegReverse l.operands
  | .shiftLeft => asmShift .shiftLeft l.operands
  | .skipIfNotEqualReg => asmXY .skipIfNotEqualReg l.operands
  | .loadAddress => asmAddr .loadAddress l.operands
  | .jumpOffset => asmAddr .jumpOffset l.operands
  | .random => asmXKK .random l.operands
  | .draw => asmXYN .draw l.operands
  | .skipIfKeyPressed => asmX .skipIfKeyPressed l.operands
  | .skipIfKeyNotPressed => asmX .skipIfKeyNotPressed l.operands
  | .loadRegDelay => asmX .loadRegDelay l.operands
  | .waitKey => asmX .waitKey l.operands
  | .loadDelayReg => asmX .loadDelayReg l.operands
  | .loadSoundReg => asmX .loadSoundReg l.operands
  | .addAddress => asmX .addAddress l.operands
  | .loadDigitSprite => asmX .loadDigitSprite l.operands
  | .storeBcd => asmX .storeBcd l.operands
  | .loadMemoryRegisters => asmX .loadMemoryRegisters l.operands
  | .loadRegistersMemory => asmX .loadRegistersMemory l.operands

/-- A register as an operand. -/
def regOperand (r : Reg) : AsmOperand := .reg r.val

/-- A shift's operands: `Vy` is written only when y is not 0 (R85). -/
def shiftOperands (x y : Reg) : List AsmOperand :=
  if y = 0 then [regOperand x] else [regOperand x, regOperand y]

/-- The operands of an instruction as the notation writes them, destination first (R85). -/
def Instr.operands : Instr → List AsmOperand
  | .clearScreen | .subroutineReturn => []
  | .jump addr => [.num addr.toNat]
  | .subroutineCall addr => [.num addr.toNat]
  | .skipIfEqualImm x kk => [regOperand x, .num kk.toNat]
  | .skipIfNotEqualImm x kk => [regOperand x, .num kk.toNat]
  | .skipIfEqualReg x y => [regOperand x, regOperand y]
  | .loadRegImm x kk => [regOperand x, .num kk.toNat]
  | .addImm x kk => [regOperand x, .num kk.toNat]
  | .loadRegReg x y => [regOperand x, regOperand y]
  | .orReg x y => [regOperand x, regOperand y]
  | .andReg x y => [regOperand x, regOperand y]
  | .xorReg x y => [regOperand x, regOperand y]
  | .addReg x y => [regOperand x, regOperand y]
  | .subtractReg x y => [regOperand x, regOperand y]
  | .shiftRight x y => shiftOperands x y
  | .subtractRegReverse x y => [regOperand x, regOperand y]
  | .shiftLeft x y => shiftOperands x y
  | .skipIfNotEqualReg x y => [regOperand x, regOperand y]
  | .loadAddress addr => [.num addr.toNat]
  | .jumpOffset addr => [.num addr.toNat]
  | .random x kk => [regOperand x, .num kk.toNat]
  | .draw x y n => [regOperand x, regOperand y, .num n.val]
  | .skipIfKeyPressed x => [regOperand x]
  | .skipIfKeyNotPressed x => [regOperand x]
  | .loadRegDelay x => [regOperand x]
  | .waitKey x => [regOperand x]
  | .loadDelayReg x => [regOperand x]
  | .loadSoundReg x => [regOperand x]
  | .addAddress x => [regOperand x]
  | .loadDigitSprite x => [regOperand x]
  | .storeBcd x => [regOperand x]
  | .loadMemoryRegisters x => [regOperand x]
  | .loadRegistersMemory x => [regOperand x]

/-- The assembly line of an instruction (R85). -/
def disassemble (i : Instr) : AsmLine := ⟨i.mnemonic, i.operands⟩

/-- The bytes of a source line: two for an instruction, one for a data byte (R86). -/
def SourceLine.bytes : SourceLine → Option (List Byte)
  | .code l => (assemble l).map fun i => wordBytes (encode i)
  | .data v => if v < 256 then some [BitVec.ofNat 8 v] else none

/-- The ROM of an assembly program; none when a line is ill formed (R85, R86). -/
def assembleProgram : List SourceLine → Option (List Byte)
  | [] => some []
  | l :: rest => l.bytes.bind fun bs => (assembleProgram rest).map (bs ++ ·)

/-! ## The host's reading of an opcode-table row -/

/-- The instruction of the opcode whose bits are `w`, numbered as spec/opcode_table.json numbers them: one 16-bit word, so
bit 0 is the least significant bit of the opcode (R7); bits above `nbits` are 0. The word is laid out big-endian (R55)
and given to the decoder. -/
def decodeTableWord (nbits w : Nat) : Option Instr :=
  match decodeBytes (wordBytes (BitVec.ofNat 16 (w % 2 ^ min nbits 16))) with
  | some (.instr i, _) => some i
  | _ => none

end Sys2Proof
end

