-- ==== Sys2Proof/Machine/Sequencer.lean ====
section
/-! DEFINITION. The phases of a step around the execute phase (40_sequencer.md). -/

namespace Sys2Proof.Machine

/-- The step's inputs (R38): the oldest supplied ones, or free ones when the host has supplied none (log entry 1). -/
def sampleInput (s : State) : State :=
  match s.pending with
  | now :: rest => { s with input := now, pending := rest }
  | [] => { s with input := Config.freeInput s.drawn, drawn := s.drawn + 1 }

/-- A timer reduced by `t` ticks, saturating at 0 (R101). -/
def tickDown (timer : Byte) (t : Nat) : Byte :=
  if timer.toNat ≤ t then 0 else BitVec.ofNat 8 (timer.toNat - t)

/-- Phase 1, `TickUpdate(in.ticks)` (R101). -/
def tickUpdate (s : State) : State :=
  { s with dt := tickDown s.dt s.input.ticks, st := tickDown s.st s.input.ticks }

/-- What a step that is not refused does before the fetch: `out.flush <- false`, the inputs, phase 1 (R100). -/
def beginStep (s : State) : State := tickUpdate (sampleInput (s.setFlush false))

/-- Phase 2 (R102): the opcode at `PC`; none where the fetch raises `AddressOutOfRange(PC, 2)`. -/
def fetchOpcode (s : State) : Option Word :=
  if s.pc.toNat + 1 ≤ 4095 then
    some (joinBytes (s.readByte s.pc.toNat) (s.readByte (s.pc.toNat + 1)))
  else none

/-- The state with the opcode's two bytes stored where the next fetch reads them; unchanged when no fetch is possible
there. -/
def storeOpcodeAtPc (op : Word) (s : State) : State :=
  match memWrite s.mem s.pc.toNat (wordBytes op) with
  | some m => s.setMem m
  | none => s

end Sys2Proof.Machine
end

