-- ==== Sys2Proof/Machine/Step.lean ====
section
/-! DEFINITION. The step (R100), and the placing of one instruction where it is fetched next. -/

namespace Sys2Proof.Machine

/-- `Step(in)` (R100): refused while the latch is set (R109); else the inputs and the tick update, the fetch, the advance
of `PC`, the decode and the execute phase, in this order. -/
def step (s : State) : Host.Outcome State Fault Refusal :=
  match s.fault with
  | some r => .refused (.faultLatched r)
  | none =>
    let s1 := beginStep s
    match fetchOpcode s1 with
    | none => raise (.addressOutOfRange s1.pc.toNat 2) s1
    | some op =>
      let s2 := s1.advance
      match decode op with
      | .failure bad => raise (.invalidInstruction bad s1.pc) s2
      | .instr i => exec i s2

/-- `s` with the instruction whose bits are `w` (numbered as the opcode table numbers them) stored big-endian at `PC`,
where `step` fetches next (R55, R100). -/
def State.withFetchWord (s : State) (nbits w : Nat) : State :=
  storeOpcodeAtPc (BitVec.ofNat 16 (w % 2 ^ min nbits 16)) s

end Sys2Proof.Machine
end

