-- ==== Sys2Proof/Machine/HostOps.lean ====
section
/-! DEFINITION. The host operations besides Step (70_reset_and_hazards.md): Reset, LoadImage, and supplying inputs. -/

namespace Sys2Proof.Machine

/-- `Reset` (R240, R241): every piece of the block's state at its reset value, the latch cleared. The parameters belong to
the instance and the supplied inputs to the host, so both stay (log entry 21). -/
def hostReset (s : State) : State :=
  { State.reset with params := s.params, pending := s.pending, drawn := s.drawn }

/-- What `LoadImage` returns (R44, R213): the loaded state, or the record of `RomTooBig`. -/
inductive LoadResult where
  | ok (s : State)
  | error (r : FaultRecord)
  deriving DecidableEq, Repr

/-- `LoadImage(rom)` (R243, R245): the size check comes first; then the font table and the ROM are copied, and nothing
else changes. -/
def loadImage (rom : List Byte) (s : State) : LoadResult :=
  if Config.memSize ≤ Config.progBase + rom.length then .error (.romTooBig rom.length)
  else .ok (s.setMem ((s.mem.writeAll Config.fontBase s.params.fontTable.toList).writeAll Config.progBase rom))

/-- The host supplies the inputs of the coming steps (R11, R38). -/
def supplyInputs (inputs : List StepInput) (s : State) : State := { s with pending := s.pending ++ inputs }

end Sys2Proof.Machine
end

