-- ==== Sys2Proof/Safety.lean ====
section
/-! DEFINITION. The terms claims are stated in: what a safe run is, the invariant of the block, what an instruction may
write, and the pixel-level meaning of a sprite. Nothing here is called by the machine. -/

namespace Sys2Proof

/-! ## What an instruction names and consumes -/

/-- The general registers an instruction names as its destination (R23). -/
def Instr.namedDests : Instr → List Reg
  | .loadRegImm x _ | .addImm x _ | .random x _ => [x]
  | .loadRegReg x _ | .orReg x _ | .andReg x _ | .xorReg x _ | .addReg x _ | .subtractReg x _ | .shiftRight x _
  | .subtractRegReverse x _ | .shiftLeft x _ => [x]
  | .loadRegDelay x | .waitKey x => [x]
  | .loadRegistersMemory x => (List.finRange 16).filter fun r => r ≤ x
  | .clearScreen | .subroutineReturn | .jump _ | .subroutineCall _ | .skipIfEqualImm _ _ | .skipIfNotEqualImm _ _
  | .skipIfEqualReg _ _ | .skipIfNotEqualReg _ _ | .loadAddress _ | .jumpOffset _ | .draw _ _ _ | .skipIfKeyPressed _
  | .skipIfKeyNotPressed _ | .loadDelayReg _ | .loadSoundReg _ | .addAddress _ | .loadDigitSprite _ | .storeBcd _
  | .loadMemoryRegisters _ => []

/-- The seven instructions that write VF as a flag (R24). -/
def Instr.writesFlag : Instr → Bool
  | .addImm _ _ | .addReg _ _ | .subtractReg _ _ | .subtractRegReverse _ _ | .shiftRight _ _ | .shiftLeft _ _
  | .draw _ _ _ => true
  | .clearScreen | .subroutineReturn | .jump _ | .subroutineCall _ | .skipIfEqualImm _ _ | .skipIfNotEqualImm _ _
  | .skipIfEqualReg _ _ | .loadRegImm _ _ | .loadRegReg _ _ | .orReg _ _ | .andReg _ _ | .xorReg _ _
  | .skipIfNotEqualReg _ _ | .loadAddress _ | .jumpOffset _ | .random _ _ | .skipIfKeyPressed _
  | .skipIfKeyNotPressed _ | .loadRegDelay _ | .waitKey _ | .loadDelayReg _ | .loadSoundReg _ | .addAddress _
  | .loadDigitSprite _ | .storeBcd _ | .loadMemoryRegisters _ | .loadRegistersMemory _ => false

/-- The instructions that consume `in.key` (R112). -/
def Instr.consumesKey : Instr → Bool
  | .skipIfKeyPressed _ | .skipIfKeyNotPressed _ | .waitKey _ => true
  | _ => false

/-- The instructions that consume `in.rnd` (R112). -/
def Instr.consumesRnd : Instr → Bool
  | .random _ _ => true
  | _ => false

/-- The control-flow instructions of 41_control_flow.md (R120). -/
def Instr.isControlFlow : Instr → Bool
  | .subroutineReturn | .jump _ | .subroutineCall _ | .skipIfEqualImm _ _ | .skipIfNotEqualImm _ _ | .skipIfEqualReg _ _
  | .skipIfNotEqualReg _ _ | .jumpOffset _ => true
  | _ => false

end Sys2Proof

namespace Sys2Proof.Machine

/-! ## Safe runs -/

/-- A step that returns `ok` (R44). -/
def stepsOk (s : State) : Bool :=
  match step s with
  | .next _ => true
  | .fault _ => false
  | .refused _ => false

/-- `k` steps that all return `ok`: a run without a fault (R216: a state with `F` set is no final state of a successful
run). -/
def runsSafely : Nat → State → Bool
  | 0, s => s.fault.isNone
  | k + 1, s =>
    match step s with
    | .next t => runsSafely k t
    | .fault _ => false
    | .refused _ => false

/-- The block is about to execute a Jump to its own address, and no fault is latched: the end of a run by the spec's own
convention (R252). -/
def State.finished (s : State) : Bool :=
  s.fault.isNone && fetchOpcode s = some (encode (.jump (s.pc.setWidth 12)))

/-! ## The invariant -/

/-- What every step keeps (R27, R31, log entry 8): the memory is canonical, the stack is no deeper than STACK_DEPTH, every
return address is at most 4096, and PC is at most 0x10FE where RET_EMPTY_PC is. -/
structure State.Inv (s : State) : Prop where
  memory : s.mem.wf
  depth : s.sp ≤ s.params.stackDepth
  returns : ∀ w ∈ s.stack, w.toNat ≤ 4096
  fallback : s.params.retEmptyPc.toNat ≤ 0x10FE
  pcBound : s.pc.toNat ≤ 0x10FE

/-! ## Frames -/

/-- Every general register outside `dst` keeps its value. -/
def RegsKept (dst : List Reg) (s t : State) : Prop := ∀ r, r ∉ dst → t.getV r = s.getV r

/-- Every byte of memory keeps its value. -/
def MemKept (s t : State) : Prop := ∀ a, t.readByte a = s.readByte a

/-- Every byte of memory outside the `n` bytes at `base` keeps its value. -/
def MemKeptOutside (base n : Nat) (s t : State) : Prop :=
  ∀ a, a < base ∨ base + n ≤ a → t.readByte a = s.readByte a

/-- The special registers I, DT, ST, the stack, the display and the latch keep their values. -/
def SpecialsKept (s t : State) : Prop :=
  t.i = s.i ∧ t.dt = s.dt ∧ t.st = s.st ∧ t.stack = s.stack ∧ t.display = s.display ∧ t.fault = s.fault

/-- The parameters and the signals of the step keep their values. -/
def SignalsKept (s t : State) : Prop :=
  t.params = s.params ∧ t.input = s.input ∧ t.pending = s.pending ∧ t.drawn = s.drawn ∧ t.flush = s.flush

/-- Nothing changes but PC. -/
def OnlyPc (s t : State) : Prop := RegsKept [] s t ∧ MemKept s t ∧ SpecialsKept s t ∧ SignalsKept s t

/-- Nothing changes but the general registers in `dst`. -/
def OnlyRegisters (dst : List Reg) (s t : State) : Prop :=
  RegsKept dst s t ∧ MemKept s t ∧ SpecialsKept s t ∧ SignalsKept s t ∧ t.pc = s.pc

/-- Nothing changes but the `n` bytes of memory at `base`. -/
def OnlyMemory (base n : Nat) (s t : State) : Prop :=
  RegsKept [] s t ∧ MemKeptOutside base n s t ∧ SpecialsKept s t ∧ SignalsKept s t ∧ t.pc = s.pc

/-- Nothing changes but I, DT, ST (each said by the claim itself), the stack and PC. -/
def DataKept (s t : State) : Prop :=
  RegsKept [] s t ∧ MemKept s t ∧ t.display = s.display ∧ t.fault = s.fault ∧ SignalsKept s t

/-- Nothing a program or the host can see of the block changes, but the timers, PC and the latch: what a step that
faults leaves alone (R218). -/
def BlockKept (s t : State) : Prop :=
  RegsKept [] s t ∧ MemKept s t ∧ t.i = s.i ∧ t.stack = s.stack ∧ t.display = s.display ∧ t.params = s.params

/-- Both timers are reduced by the ticks of the step that ended in `t`, stopping at 0 (R101). -/
def TimersTicked (s t : State) : Prop :=
  t.dt.toNat = s.dt.toNat - t.input.ticks ∧ t.st.toNat = s.st.toNat - t.input.ticks

/-- The instruction the state fetches next, if it can fetch and decode one (R102, R104). -/
def State.nextInstr (s : State) : Option Instr :=
  match fetchOpcode s with
  | some op =>
    match decode op with
    | .instr i => some i
    | .failure _ => none
  | none => none

/-! ## Sprites, pixel by pixel -/

/-- The pixel that the sprite of `n` bytes at `I` has at column `c` of row `r` when its origin is (`x0`, `y0`): bit 7 of a
sprite byte is its leftmost pixel, byte i is row i downward, and what falls outside the grid is no pixel (R154, R155,
R156). -/
def spritePixel (s : State) (x0 y0 n : Nat) (r : Fin 32) (c : Nat) : Bool :=
  y0 ≤ r.val && r.val < y0 + n && x0 ≤ c && c < x0 + 8 &&
    (s.readByte (s.i.toNat + (r.val - y0))).getLsbD (7 - (c - x0))

/-! ## Outcomes -/

/-- The outcome with `f` applied to the state it holds. -/
def mapOutcome (f : State → State) : Result → Result
  | .next t => .next (f t)
  | .fault (.raised r t) => .fault (.raised r (f t))
  | .refused r => .refused r

/-- The state with other sampled inputs. -/
def State.withInput (j : StepInput) (s : State) : State := { s with input := j }

end Sys2Proof.Machine
end

