-- ==== Sys2Proof/Certificates/Slice0/Obligations.lean ====
section
/-! DEFINITION. The statements for the provers. In a statement about `exec`, `s` is the state handed to the execute phase:
its PC already holds the fetch address plus 2 (R103). -/

open Sys2Proof Sys2Proof.Machine

/-! ## Encoding (30_encoding.md) -/

/-- Decoding the word of any instruction gives the instruction back, with every operand at every value. The bit patterns
are the spec's decision D1 (log entry 11). -/
def Obligations.DecodeOfEncodeIsTheInstruction : Prop :=
  ∀ i : Instr, decode (encode i) = .instr i

/-- An opcode that decodes is the word of what it decodes to: no two opcodes are one instruction, and no bit of a legal
opcode is dropped. -/
def Obligations.EncodeOfDecodeIsTheOpcode : Prop :=
  ∀ (op : Word) (i : Instr), decode op = .instr i → encode i = op

/-- The decoder and the mask-and-match table of R76 are the same function: a row selects an opcode exactly when the decoder
gives the row's variant, the decoder answers an instruction or the failure that carries the opcode, and it fails exactly
when no row selects (R73, R78). -/
def Obligations.DecodeAgreesWithTheOpcodeTable : Prop :=
  ∀ op : Word,
    (∀ row ∈ opcodeTable,
      (row.selectedBy op = true ↔ ∃ i, decode op = .instr i ∧ i.mnemonic = row.mnemonic)) ∧
    ((∃ i, decode op = .instr i) ∨ decode op = .failure op) ∧
    (decode op = .failure op ↔ ∀ row ∈ opcodeTable, row.selectedBy op = false)

/-- The illegal encodings are exactly those the table of R79 lists, family by family (the spec's decisions D1 to D4). -/
def Obligations.IllegalEncodingsAreExactlyThoseListed : Prop :=
  ∀ op : Word, decode op = .failure op ↔
    (fieldFamily op = 0x0#4 ∧ op ≠ 0x00E0#16 ∧ op ≠ 0x00EE#16) ∨
    (fieldFamily op = 0x5#4 ∧ fieldSub op ≠ 0x0#4) ∨
    (fieldFamily op = 0x8#4 ∧ fieldSub op ∈ [0x8#4, 0x9#4, 0xA#4, 0xB#4, 0xC#4, 0xD#4, 0xF#4]) ∨
    (fieldFamily op = 0x9#4 ∧ fieldSub op ≠ 0x0#4) ∨
    (fieldFamily op = 0xE#4 ∧ fieldKK op ∉ [0x9E#8, 0xA1#8]) ∨
    (fieldFamily op = 0xF#4 ∧
      fieldKK op ∉ [0x07#8, 0x0A#8, 0x15#8, 0x18#8, 0x1E#8, 0x29#8, 0x33#8, 0x55#8, 0x65#8])

/-- Words of 95_test_vectors.md section 2.1 decode to what it lists. -/
def Obligations.SpecWordsDecodeAsListed : Prop :=
  decode 0x2FFF#16 = .instr (.subroutineCall 0xFFF#12) ∧
  decode 0x3A42#16 = .instr (.skipIfEqualImm 10 0x42#8) ∧
  decode 0x8AB7#16 = .instr (.subtractRegReverse 10 11) ∧
  decode 0xD000#16 = .instr (.draw 0 0 0) ∧
  decode 0xFE0A#16 = .instr (.waitKey 14) ∧
  decode 0x01E0#16 = .failure 0x01E0#16 ∧
  decode 0x812F#16 = .failure 0x812F#16

/-- Assembling the assembly line of any instruction gives the instruction back, the shifts' unwritten `Vy` as 0 (R85; the
notation is the spec's decision D27, log entry 19). -/
def Obligations.AssembleOfDisassembleIsTheInstruction : Prop :=
  ∀ i : Instr, assemble (disassemble i) = some i

/-- The assembler accepts exactly the well-formed lines (log entry 19). -/
def Obligations.AssemblerAcceptsExactlyWellFormedLines : Prop :=
  ∀ l : AsmLine, (assemble l).isSome = l.wf

/-! ## The step (40_sequencer.md, 60_exceptions.md) -/

/-- R55: with PC at 0 to 4094 there is a fetched opcode, and it has the byte at PC as its high-order byte and the next byte as
its low-order byte. -/
def Obligations.FetchIsBigEndian : Prop :=
  ∀ s : State, s.pc.toNat ≤ 4094 →
    ∃ op, fetchOpcode s = some op ∧
      op.toNat = 256 * (s.readByte s.pc.toNat).toNat + (s.readByte (s.pc.toNat + 1)).toNat

/-- When no fault is latched and the two bytes at PC decode to an instruction, the step is that instruction executed on
the state after the sampled inputs, the tick update and the advance of PC (R100, R105). -/
def Obligations.StepRunsTheDecodedInstruction : Prop :=
  ∀ (s : State) (i : Instr), s.fault = none → s.pc.toNat ≤ 4094 →
    decode (joinBytes (s.readByte s.pc.toNat) (s.readByte (s.pc.toNat + 1))) = .instr i →
    step s = exec i (beginStep s).advance

/-- What the state handed to the execute phase holds: PC advanced by 2 (R103), both timers ticked (R101), the flush output
false (R100), the inputs the oldest supplied ones or free ones (log entry 1), and everything else unchanged. -/
def Obligations.StateHandedToExecute : Prop :=
  ∀ s : State,
    (s.pc.toNat ≤ 4094 → (beginStep s).advance.pc.toNat = s.pc.toNat + 2) ∧
    TimersTicked s (beginStep s).advance ∧
    BlockKept s (beginStep s).advance ∧
    (beginStep s).advance.fault = s.fault ∧
    (beginStep s).advance.flush = false ∧
    (∀ now rest, s.pending = now :: rest →
      (beginStep s).advance.input = now ∧ (beginStep s).advance.pending = rest ∧
        (beginStep s).advance.drawn = s.drawn) ∧
    (s.pending = [] →
      (beginStep s).advance.input = Config.freeInput s.drawn ∧ (beginStep s).advance.pending = [] ∧
        (beginStep s).advance.drawn = s.drawn + 1)

/-- An opcode that does not decode ends the step with `InvalidInstruction(opcode, address)`; the record is
latched, the timers are ticked, PC is advanced, and nothing else has changed (R104, R211; decisions D7, D12, D25). -/
def Obligations.UndecodableOpcodeFaults : Prop :=
  ∀ (s : State) (op : Word), s.fault = none → fetchOpcode s = some op → decode op = .failure op →
    ∃ t, step s = .fault (.raised (.invalidInstruction op s.pc) t) ∧
      t.fault = some (.invalidInstruction op s.pc) ∧ t.pc.toNat = s.pc.toNat + 2 ∧
      TimersTicked s t ∧ BlockKept s t

/-- A fetch with PC above 4094 ends the step with `AddressOutOfRange(PC, 2)`; PC is not advanced (R102, R214; decision
D8). -/
def Obligations.FetchOutOfRangeFaults : Prop :=
  ∀ s : State, s.fault = none → 4094 < s.pc.toNat →
    ∃ t, step s = .fault (.raised (.addressOutOfRange s.pc.toNat 2) t) ∧
      t.fault = some (.addressOutOfRange s.pc.toNat 2) ∧ t.pc = s.pc ∧ TimersTicked s t ∧ BlockKept s t

/-- While a fault is latched every step is refused (R109; decision D7, log entry 7). -/
def Obligations.StepIsRefusedWhileAFaultIsLatched : Prop :=
  ∀ (s : State) (r : FaultRecord), s.fault = some r → step s = .refused (.faultLatched r)

/-- R110: with no fault latched, a step always answers, for any inputs: a next state with no fault latched, or a fault whose
record is latched. No instruction stops the machine. -/
def Obligations.StepAlwaysAnswersWhenNoFaultIsLatched : Prop :=
  ∀ s : State, s.fault = none →
    (∃ t, step s = .next t ∧ t.fault = none) ∨
      ∃ r t, step s = .fault (.raised r t) ∧ t.fault = some r

/-- The timers only count down, by the step's ticks and stopping at 0, except where the step executes the timer's own
write (R30, R101; the place of the update is decision D12). -/
def Obligations.TimersChangeByTicksAndTheirOwnWrites : Prop :=
  ∀ s t : State, step s = .next t →
    ((∀ x, s.nextInstr ≠ some (.loadDelayReg x)) → t.dt.toNat = s.dt.toNat - t.input.ticks) ∧
    ((∀ x, s.nextInstr ≠ some (.loadSoundReg x)) → t.st.toNat = s.st.toNat - t.input.ticks) ∧
    (∀ now rest, s.pending = now :: rest → t.input = now)

/-- A step that faults leaves behind only the tick update, the advance of PC when the fetch succeeded, and the latched
record (R216, R218; decision D25). -/
def Obligations.FaultingStepPerformsNoWriteOfTheInstruction : Prop :=
  ∀ (s t : State) (r : FaultRecord), step s = .fault (.raised r t) →
    s.fault = none ∧ t.fault = some r ∧ TimersTicked s t ∧ BlockKept s t ∧ t.flush = false ∧
      (4094 < s.pc.toNat ∧ t.pc = s.pc ∨ s.pc.toNat ≤ 4094 ∧ t.pc.toNat = s.pc.toNat + 2)

/-- The only faults a step can end with, and their causes: never `InstructionNotImplemented` or `RomTooBig`, and
`DisplayRowOutOfRange` only when DRAW_BOTTOM is `fault` (R210 to R217; decisions D8, D9, D14, D29). -/
def Obligations.StepFaultsOnlyForTheCausesListed : Prop :=
  ∀ (s t : State) (r : FaultRecord), step s = .fault (.raised r t) →
    (∃ op, r = .invalidInstruction op s.pc ∧ decode op = .failure op ∧ fetchOpcode s = some op) ∨
    (∃ addr len, r = .addressOutOfRange addr len ∧ 1 ≤ len ∧ 4096 < addr + len) ∨
    (r = .stackOverflow (s.pc + 2) ∧ s.params.stackDepth ≤ s.sp) ∨
    (∃ y0 n, r = .displayRowOutOfRange y0 n ∧ s.params.drawBottom = .fault ∧ 1 ≤ n ∧ 31 < y0 + n - 1)

/-- Every step keeps the invariant, whether it ends in a next state or in a fault: canonical memory, a stack within
STACK_DEPTH, return addresses at most 4096, and PC at most 0x10FE (R27, R31). -/
def Obligations.EveryStepKeepsTheInvariant : Prop :=
  ∀ s : State, s.Inv →
    (∀ t, step s = .next t → t.Inv) ∧ ∀ r t, step s = .fault (.raised r t) → t.Inv

/-- The invariant holds after reset. It rests on the reset values that are the spec's own decision D11 (log entry 4), on the
default parameters (log entry 5) and on the form of the memory (log entry 8). -/
def Obligations.ResetMeetsTheInvariant : Prop := State.reset.Inv

/-! ## Reset and image load (70_reset_and_hazards.md) -/

/-- Reset, from any state, and the state after reset: PC 0x200 and a blank display (R36), and, by the spec's decision D11
(log entry 4), zero registers, memory and timers, an empty stack and no fault (R240). -/
def Obligations.ResetLeavesTheResetValues : Prop :=
  ∀ t : State, (t = State.reset ∨ ∃ s, t = hostReset s) →
    t.pc = 0x200#16 ∧ (∀ r c, t.pixel r c = false) ∧ (∀ r, t.getV r = 0) ∧ t.i = 0 ∧ t.dt = 0 ∧ t.st = 0 ∧
      t.sp = 0 ∧ (∀ a, t.readByte a = 0) ∧ t.fault = none

/-- The load boundary: the load fails exactly from 3584 bytes on, and a load that succeeds leaves 0xFFF alone (from R245; where
the bytes of the ROM lie is said by LoadImageWritesFontAndRomOnly). -/
def Obligations.LoadImageFailsExactlyFrom3584Bytes : Prop :=
  ∀ (rom : List Byte) (s : State),
    (3584 ≤ rom.length → loadImage rom s = .error (.romTooBig rom.length)) ∧
    (rom.length ≤ 3583 → ∃ t, loadImage rom s = .ok t ∧ t.readByte 0xFFF = s.readByte 0xFFF)

/-- A load writes the font table at 0 and the ROM at 0x200 and changes nothing else (R243; decision D24). -/
def Obligations.LoadImageWritesFontAndRomOnly : Prop :=
  ∀ (rom : List Byte) (s t : State), s.mem.wf → loadImage rom s = .ok t →
    (∀ (k : Nat) (h : k < 80), t.readByte k = s.params.fontTable[k]) ∧
    (∀ (k : Nat) (h : k < rom.length), t.readByte (0x200 + k) = rom[k]) ∧
    (∀ a, 80 ≤ a ∧ a < 0x200 ∨ 0x200 + rom.length ≤ a → t.readByte a = s.readByte a) ∧
    t.mem.wf ∧ RegsKept [] s t ∧ SpecialsKept s t ∧ SignalsKept s t ∧ t.pc = s.pc

/-- A step after reset with no image loaded faults with `InvalidInstruction(0x0000, 0x0200)` (R242). -/
def Obligations.StepAfterResetWithoutImageFaults : Prop :=
  ∃ t, step State.reset = .fault (.raised (.invalidInstruction 0x0000#16 0x0200#16) t) ∧ t.pc = 0x202#16

/-- A store over the bytes at PC is what the next fetch reads (R63, R249). -/
def Obligations.StoredCodeIsFetchedNext : Prop :=
  ∀ (x j k : Reg) (s t : State), s.mem.wf → exec (.loadMemoryRegisters x) s = .next t →
    k.val = j.val + 1 → k ≤ x → s.pc.toNat = s.i.toNat + j.val →
    fetchOpcode t = some (joinBytes (s.getV j) (s.getV k))

/-- From a state about to jump to itself, every step ends in such a state again and changes nothing but the timers (R252;
the end-of-run convention is decision D26). -/
def Obligations.FinishedRunsStayFinished : Prop :=
  ∀ s : State, s.finished = true →
    ∃ t, step s = .next t ∧ t.finished = true ∧ t.pc = s.pc ∧ TimersTicked s t ∧ BlockKept s t

/-- Inputs an instruction does not consume have no effect on it (R112). -/
def Obligations.UnconsumedInputsHaveNoEffect : Prop :=
  ∀ (i : Instr) (s : State) (j : StepInput),
    (i.consumesKey = false ∨ j.key = s.input.key) → (i.consumesRnd = false ∨ j.rnd = s.input.rnd) →
    exec i (s.withInput j) = mapOutcome (State.withInput j) (exec i s)

/-! ## Whole-machine frames -/

/-- A general register changes only where the instruction names it as its destination, and VF also where the instruction
is one of the seven that write it as a flag (R23, R24). -/
def Obligations.RegistersChangeOnlyWhereNamedOrFlagged : Prop :=
  ∀ (i : Instr) (s t : State) (r : Reg), exec i s = .next t → r ∉ i.namedDests →
    (r = VF → i.writesFlag = false) → t.getV r = s.getV r

/-- A step changes memory only if it executes LoadMemoryRegisters or StoreBcd (R50). -/
def Obligations.OnlyTheTwoStoresChangeMemory : Prop :=
  ∀ s t : State, step s = .next t →
    (∀ x, s.nextInstr ≠ some (.loadMemoryRegisters x)) → (∀ x, s.nextInstr ≠ some (.storeBcd x)) →
    MemKept s t

/-- A step changes the display only if it executes ClearScreen or Draw (R149). -/
def Obligations.OnlyClearScreenAndDrawChangeTheDisplay : Prop :=
  ∀ s t : State, step s = .next t →
    s.nextInstr ≠ some .clearScreen → (∀ x y n, s.nextInstr ≠ some (.draw x y n)) →
    t.display = s.display

/-- The flush output is true after a step exactly when the step executed Draw without faulting (R42, R160; decision
D16). -/
def Obligations.FlushExactlyAfterDraw : Prop :=
  ∀ s t : State, step s = .next t → (t.flush = true ↔ ∃ x y n, s.nextInstr = some (.draw x y n))

/-- A step changes the call stack only if it executes SubroutineCall or SubroutineReturn (R31). -/
def Obligations.OnlyCallAndReturnChangeTheStack : Prop :=
  ∀ s t : State, step s = .next t →
    (∀ a, s.nextInstr ≠ some (.subroutineCall a)) → s.nextInstr ≠ some .subroutineReturn →
    t.stack = s.stack

/-! ## Control flow (41_control_flow.md) -/

/-- R122: Jump completes on every state; PC becomes the address and nothing else changes. -/
def Obligations.JumpSetsPc : Prop :=
  ∀ (addr : Addr12) (s : State),
    ∃ t, exec (.jump addr) s = .next t ∧ t.pc.toNat = addr.toNat ∧ t.stack = s.stack ∧ OnlyPc s t

/-- SubroutineCall pushes PC and jumps when there is room, and faults with `StackOverflow` when there is none, with
nothing changed but the latch (R123, R217; the bound is decision D9). -/
def Obligations.SubroutineCallPushesOrOverflows : Prop :=
  ∀ (addr : Addr12) (s : State),
    (s.sp < s.params.stackDepth →
      ∃ t, exec (.subroutineCall addr) s = .next t ∧ t.stack = s.stack ++ [s.pc] ∧ t.pc.toNat = addr.toNat ∧
        DataKept s t ∧ t.i = s.i ∧ t.dt = s.dt ∧ t.st = s.st) ∧
    (s.params.stackDepth ≤ s.sp →
      exec (.subroutineCall addr) s =
        .fault (.raised (.stackOverflow s.pc) { s with fault := some (.stackOverflow s.pc) }))

/-- SubroutineReturn takes PC from the top of the stack, or from RET_EMPTY_PC when the stack is empty (R121; decision
D10). -/
def Obligations.SubroutineReturnPopsOrFallsBack : Prop :=
  ∀ s : State, ∃ t, exec .subroutineReturn s = .next t ∧ DataKept s t ∧ t.i = s.i ∧ t.dt = s.dt ∧ t.st = s.st ∧
    (∀ l w, s.stack = l ++ [w] → t.pc = w ∧ t.stack = l) ∧
    (s.stack = [] → t.pc = s.params.retEmptyPc ∧ t.stack = [])

/-- A return with the stack as the call left it comes back behind the call, whatever else the subroutine changed (R121,
R123). -/
def Obligations.ReturnComesBackBehindTheCall : Prop :=
  ∀ (addr : Addr12) (s : State), s.sp < s.params.stackDepth →
    ∃ t, exec (.subroutineCall addr) s = .next t ∧
      ∀ w : State, w.stack = t.stack →
        ∃ u, exec .subroutineReturn w = .next u ∧ u.pc = s.pc ∧ u.stack = s.stack

/-- R124, R125, R126, R127: the four compare skips complete on every state, advance PC by an extra 2 exactly when their
comparison holds, and change nothing else. -/
def Obligations.CompareSkipsAdvanceByTwoWhenTheComparisonHolds : Prop :=
  ∀ (x y : Reg) (kk : Byte) (s : State),
    (∃ t, exec (.skipIfEqualImm x kk) s = .next t ∧ OnlyPc s t ∧
      (s.getV x = kk → t.pc = s.pc + 2) ∧ (s.getV x ≠ kk → t.pc = s.pc)) ∧
    (∃ t, exec (.skipIfNotEqualImm x kk) s = .next t ∧ OnlyPc s t ∧
      (s.getV x ≠ kk → t.pc = s.pc + 2) ∧ (s.getV x = kk → t.pc = s.pc)) ∧
    (∃ t, exec (.skipIfEqualReg x y) s = .next t ∧ OnlyPc s t ∧
      (s.getV x = s.getV y → t.pc = s.pc + 2) ∧ (s.getV x ≠ s.getV y → t.pc = s.pc)) ∧
    (∃ t, exec (.skipIfNotEqualReg x y) s = .next t ∧ OnlyPc s t ∧
      (s.getV x ≠ s.getV y → t.pc = s.pc + 2) ∧ (s.getV x = s.getV y → t.pc = s.pc))

/-- JumpOffset sets PC to the address plus V0, not masked and never wrapping (R128; decisions D5, D18). -/
def Obligations.JumpOffsetAddsV0 : Prop :=
  ∀ (addr : Addr12) (s : State),
    ∃ t, exec (.jumpOffset addr) s = .next t ∧ t.pc.toNat = addr.toNat + (s.getV 0).toNat ∧ OnlyPc s t

/-- No control-flow instruction changes a general register, memory, I, the display or a timer (R120). -/
def Obligations.ControlFlowTouchesOnlyPcAndTheStack : Prop :=
  ∀ (i : Instr) (s t : State), i.isControlFlow = true → exec i s = .next t →
    DataKept s t ∧ t.i = s.i ∧ t.dt = s.dt ∧ t.st = s.st

/-! ## Loads and stores (42_memory_ops.md) -/

/-- R140, R141, R142: the plain assignments complete on every state, write the value, and change nothing else. -/
def Obligations.PlainLoadsAssign : Prop :=
  ∀ (x y : Reg) (kk : Byte) (addr : Addr12) (s : State),
    (∃ t, exec (.loadRegImm x kk) s = .next t ∧ t.getV x = kk ∧ OnlyRegisters [x] s t) ∧
    (∃ t, exec (.loadRegReg x y) s = .next t ∧ t.getV x = s.getV y ∧ OnlyRegisters [x] s t) ∧
    (∃ t, exec (.loadAddress addr) s = .next t ∧ t.i.toNat = addr.toNat ∧ DataKept s t ∧ t.pc = s.pc ∧
      t.dt = s.dt ∧ t.st = s.st ∧ t.stack = s.stack)

/-- LoadMemoryRegisters stores V0..Vx at I..I+x and changes no other byte, no register and not I, when the bytes lie in
memory; else it faults with `AddressOutOfRange(I, x + 1)` and no byte is written (R143; the fault is decision D8). -/
def Obligations.LoadMemoryRegistersStoresInclusive : Prop :=
  ∀ (x : Reg) (s : State), s.mem.wf →
    (s.i.toNat + x.val ≤ 4095 →
      ∃ t, exec (.loadMemoryRegisters x) s = .next t ∧
        (∀ k : Reg, k ≤ x → t.readByte (s.i.toNat + k.val) = s.getV k) ∧
        OnlyMemory s.i.toNat (x.val + 1) s t) ∧
    (4095 < s.i.toNat + x.val →
      exec (.loadMemoryRegisters x) s =
        .fault (.raised (.addressOutOfRange s.i.toNat (x.val + 1))
          { s with fault := some (.addressOutOfRange s.i.toNat (x.val + 1)) }))

/-- LoadRegistersMemory loads V0..Vx from I..I+x and changes no other register, no byte and not I, when the bytes lie in
memory; else it faults with `AddressOutOfRange(I, x + 1)` and no register is written (R144; the fault is decision D8). -/
def Obligations.LoadRegistersMemoryLoadsInclusive : Prop :=
  ∀ (x : Reg) (s : State),
    (s.i.toNat + x.val ≤ 4095 →
      ∃ t, exec (.loadRegistersMemory x) s = .next t ∧
        (∀ k : Reg, k ≤ x → t.getV k = s.readByte (s.i.toNat + k.val)) ∧
        OnlyRegisters ((List.finRange 16).filter fun r => r ≤ x) s t) ∧
    (4095 < s.i.toNat + x.val →
      exec (.loadRegistersMemory x) s =
        .fault (.raised (.addressOutOfRange s.i.toNat (x.val + 1))
          { s with fault := some (.addressOutOfRange s.i.toNat (x.val + 1)) }))

/-- A load after a store, from the same I and memory, gives V0..Vx back as they were when the store executed, whatever was done
to the registers in between (R145). -/
def Obligations.StoreThenLoadGivesTheRegistersBack : Prop :=
  ∀ (x : Reg) (s : State), s.mem.wf → s.i.toNat + x.val ≤ 4095 →
    ∃ t, exec (.loadMemoryRegisters x) s = .next t ∧
      ∀ w : State, w.i = t.i → (∀ k, k ≤ x.val → w.readByte (t.i.toNat + k) = t.readByte (t.i.toNat + k)) →
        ∃ u, exec (.loadRegistersMemory x) w = .next u ∧ ∀ k : Reg, k ≤ x → u.getV k = s.getV k

/-! ## Display (43_display.md) -/

/-- R159: ClearScreen and reset set every pixel to 0; ClearScreen completes on every state and changes nothing else of the
block (its flush output is FlushExactlyAfterDraw's). -/
def Obligations.ClearScreenZeroesTheDisplay : Prop :=
  ∀ s : State,
    (∃ t, exec .clearScreen s = .next t ∧ (∀ r c, t.pixel r c = false) ∧ RegsKept [] s t ∧ MemKept s t ∧ t.pc = s.pc ∧
      t.i = s.i ∧ t.dt = s.dt ∧ t.st = s.st ∧ t.stack = s.stack ∧ t.fault = s.fault ∧ t.params = s.params) ∧
    ∀ r c, (hostReset s).pixel r c = false

/-- Draw, pixel by pixel: every display pixel is XORed with the sprite's pixel there, VF is 1 exactly when some set pixel of the
display is also one of the sprite, the flush output is set, and nothing else changes. The origin wraps; pixels outside the
grid are dropped (R151 to R157; decisions D13, D14, D15). -/
def Obligations.DrawXorsTheSpritePixelByPixel : Prop :=
  ∀ (x y : Reg) (n : Nibble) (s : State),
    (n = 0 ∨ s.i.toNat + n.val ≤ 4096) →
    (s.params.drawBottom = .clip ∨ n = 0 ∨ (s.getV y).toNat % 32 + n.val ≤ 32) →
    ∃ t, exec (.draw x y n) s = .next t ∧
      (∀ (r : Fin 32) (c : Nat), c < 64 →
        t.pixel r c =
          (s.pixel r c ^^ spritePixel s ((s.getV x).toNat % 64) ((s.getV y).toNat % 32) n.val r c)) ∧
      ((∃ (r : Fin 32) (c : Nat), c < 64 ∧ s.pixel r c = true ∧
          spritePixel s ((s.getV x).toNat % 64) ((s.getV y).toNat % 32) n.val r c = true) → t.getV VF = 1) ∧
      ((∀ (r : Fin 32) (c : Nat), c < 64 → s.pixel r c = true →
          spritePixel s ((s.getV x).toNat % 64) ((s.getV y).toNat % 32) n.val r c = false) → t.getV VF = 0) ∧
      t.flush = true ∧ RegsKept [VF] s t ∧ MemKept s t ∧ t.pc = s.pc ∧ t.i = s.i ∧ t.dt = s.dt ∧ t.st = s.st ∧
      t.stack = s.stack ∧ t.fault = s.fault ∧ t.params = s.params

/-- Draw faults with `AddressOutOfRange(I, n)` when a sprite byte lies outside memory, and else, only when DRAW_BOTTOM is
`fault`, with `DisplayRowOutOfRange(y0, n)` when the sprite passes row 31; nothing changes but the latch (R151, R156,
R215, R219; decisions D8, D14). -/
def Obligations.DrawFaultsBeforeTouchingTheDisplay : Prop :=
  ∀ (x y : Reg) (n : Nibble) (s : State),
    (1 ≤ n.val → 4096 < s.i.toNat + n.val →
      exec (.draw x y n) s =
        .fault (.raised (.addressOutOfRange s.i.toNat n.val)
          { s with fault := some (.addressOutOfRange s.i.toNat n.val) })) ∧
    (1 ≤ n.val → s.i.toNat + n.val ≤ 4096 → s.params.drawBottom = .fault →
      31 < (s.getV y).toNat % 32 + n.val - 1 →
      exec (.draw x y n) s =
        .fault (.raised (.displayRowOutOfRange ((s.getV y).toNat % 32) n.val)
          { s with fault := some (.displayRowOutOfRange ((s.getV y).toNat % 32) n.val) }))

/-- Drawing the same sprite twice at the same coordinates restores the display; on a blank display the first draw does not
collide and the second collides exactly when some set pixel of the sprite lies inside the grid (R158). -/
def Obligations.DrawingTwiceRestoresTheDisplay : Prop :=
  ∀ (x y : Reg) (n : Nibble) (s t : State), exec (.draw x y n) s = .next t →
    t.getV x = s.getV x → t.getV y = s.getV y →
    ∃ u, exec (.draw x y n) t = .next u ∧ u.display = s.display ∧
      ((∀ r c, s.pixel r c = false) → t.getV VF = 0 ∧
        (u.getV VF = 1 ↔ ∃ (r : Fin 32) (c : Nat), c < 64 ∧
          spritePixel s ((s.getV x).toNat % 64) ((s.getV y).toNat % 32) n.val r c = true))

/-! ## Arithmetic (44_arithmetic.md) -/

/-- AddImm and AddReg complete on every state: `Vx` is the sum modulo 256 and VF the carry; when x = 15 VF is the carry, the
later write (R170, R171; the order of the writes is decision D13). -/
def Obligations.AdditionsWriteSumThenCarry : Prop :=
  ∀ (x y : Reg) (kk : Byte) (s : State),
    (∃ t, exec (.addImm x kk) s = .next t ∧
      (x ≠ VF → (t.getV x).toNat = ((s.getV x).toNat + kk.toNat) % 256) ∧
      (t.getV VF).toNat = ((s.getV x).toNat + kk.toNat) / 256 ∧ OnlyRegisters [x, VF] s t) ∧
    (∃ t, exec (.addReg x y) s = .next t ∧
      (x ≠ VF → (t.getV x).toNat = ((s.getV x).toNat + (s.getV y).toNat) % 256) ∧
      (t.getV VF).toNat = ((s.getV x).toNat + (s.getV y).toNat) / 256 ∧ OnlyRegisters [x, VF] s t)

/-- SubtractReg and SubtractRegReverse complete on every state: `Vx` is the difference modulo 256 and VF is 1 exactly when the
minuend is not less than the subtrahend (90_conflicts.md C1); when x = 15 VF is the difference, the later write (R172,
R173; decisions D5, D13). -/
def Obligations.SubtractionsWriteNotBorrowThenDifference : Prop :=
  ∀ (x y : Reg) (s : State),
    (∃ t, exec (.subtractReg x y) s = .next t ∧
      ((t.getV x).toNat : Int) = (((s.getV x).toNat : Int) - (s.getV y).toNat) % 256 ∧
      (x ≠ VF → t.getV VF = if (s.getV y).toNat ≤ (s.getV x).toNat then 1 else 0) ∧ OnlyRegisters [x, VF] s t) ∧
    (∃ t, exec (.subtractRegReverse x y) s = .next t ∧
      ((t.getV x).toNat : Int) = (((s.getV y).toNat : Int) - (s.getV x).toNat) % 256 ∧
      (x ≠ VF → t.getV VF = if (s.getV x).toNat ≤ (s.getV y).toNat then 1 else 0) ∧ OnlyRegisters [x, VF] s t)

/-! ## Logic and shifts (45_logic.md) -/

/-- R181, R182, R183: the bitwise operations complete on every state, combine `Vx` and `Vy` bit by bit, and write `Vx` only: VF
is not a flag of theirs. -/
def Obligations.BitwiseOperationsWriteVxOnly : Prop :=
  ∀ (x y : Reg) (s : State),
    (∃ t, exec (.orReg x y) s = .next t ∧ OnlyRegisters [x] s t ∧
      ∀ k, (t.getV x).getLsbD k = ((s.getV x).getLsbD k || (s.getV y).getLsbD k)) ∧
    (∃ t, exec (.andReg x y) s = .next t ∧ OnlyRegisters [x] s t ∧
      ∀ k, (t.getV x).getLsbD k = ((s.getV x).getLsbD k && (s.getV y).getLsbD k)) ∧
    (∃ t, exec (.xorReg x y) s = .next t ∧ OnlyRegisters [x] s t ∧
      ∀ k, (t.getV x).getLsbD k = ((s.getV x).getLsbD k ^^ (s.getV y).getLsbD k))

/-- The shifts complete on every state, on `Vx` in place whatever `y` is: `Vx` is halved or doubled modulo 256 and VF is the bit
shifted out; when x = 15 VF is the shifted value, the later write (R184, R185; decisions D13, D31). -/
def Obligations.ShiftsWriteBitOutThenResult : Prop :=
  ∀ (x y : Reg) (s : State),
    (∃ t, exec (.shiftRight x y) s = .next t ∧ (t.getV x).toNat = (s.getV x).toNat / 2 ∧
      (x ≠ VF → (t.getV VF).toNat = (s.getV x).toNat % 2) ∧ OnlyRegisters [x, VF] s t) ∧
    (∃ t, exec (.shiftLeft x y) s = .next t ∧ (t.getV x).toNat = 2 * (s.getV x).toNat % 256 ∧
      (x ≠ VF → (t.getV VF).toNat = (s.getV x).toNat / 128) ∧ OnlyRegisters [x, VF] s t)

/-! ## Random, keys, timers, address register, BCD (46_misc_timer_key.md) -/

/-- Random completes on every state and writes the step's random byte, masked bit by bit with `kk`, for every random byte (R190;
decisions D6, D21). -/
def Obligations.RandomWritesTheMaskedInput : Prop :=
  ∀ (x : Reg) (kk : Byte) (s : State),
    ∃ t, exec (.random x kk) s = .next t ∧ OnlyRegisters [x] s t ∧
      ∀ k, (t.getV x).getLsbD k = (s.input.rnd.getLsbD k && kk.getLsbD k)

/-- The key skips complete on every state; the one skips exactly when the reported key is the whole value of `Vx`, the other exactly
when it is not (R191, R192; decisions D6, D19). -/
def Obligations.KeySkipsAreOppositesOnTheReportedKey : Prop :=
  ∀ (x : Reg) (s : State),
    ∃ t u, exec (.skipIfKeyPressed x) s = .next t ∧ exec (.skipIfKeyNotPressed x) s = .next u ∧
      OnlyPc s t ∧ OnlyPc s u ∧
      (∀ k, s.input.key = some k → k.val = (s.getV x).toNat → t.pc = s.pc + 2 ∧ u.pc = s.pc) ∧
      (∀ k, s.input.key = some k → k.val ≠ (s.getV x).toNat → t.pc = s.pc ∧ u.pc = s.pc + 2) ∧
      (s.input.key = none → t.pc = s.pc ∧ u.pc = s.pc + 2)

/-- LoadRegDelay completes on every state and copies DT, as it stands after the step's tick update, to `Vx` (R193; decisions D6,
D12). -/
def Obligations.LoadRegDelayReadsTheTickedTimer : Prop :=
  ∀ (x : Reg) (s : State),
    (∃ t, exec (.loadRegDelay x) s = .next t ∧ t.getV x = s.dt ∧ OnlyRegisters [x] s t) ∧
    (s.fault = none → s.nextInstr = some (.loadRegDelay x) →
      ∃ t, step s = .next t ∧ (t.getV x).toNat = s.dt.toNat - t.input.ticks)

/-- WaitKey completes on every state: with a key it writes the key's code to `Vx`, with none it takes PC back by 2 and changes
nothing else (R194; decision D6). -/
def Obligations.WaitKeyStoresTheKeyOrTakesPcBack : Prop :=
  ∀ (x : Reg) (s : State),
    (∀ k, s.input.key = some k →
      ∃ t, exec (.waitKey x) s = .next t ∧ (t.getV x).toNat = k.val ∧ OnlyRegisters [x] s t) ∧
    (s.input.key = none → ∃ t, exec (.waitKey x) s = .next t ∧ t.pc = s.pc - 2 ∧ OnlyPc s t)

/-- A step that executes WaitKey while no key is pressed is a successful step that leaves PC on the instruction and lets the timers
run (R111, R194). -/
def Obligations.WaitKeyStepStaysOnItselfWithoutAKey : Prop :=
  ∀ (x : Reg) (s : State) (now : StepInput) (rest : List StepInput),
    s.fault = none → s.nextInstr = some (.waitKey x) → s.pending = now :: rest → now.key = none →
    ∃ t, step s = .next t ∧ t.pc = s.pc ∧ t.fault = none ∧ TimersTicked s t ∧ BlockKept s t

/-- The timer writes complete on every state and set DT or ST to `Vx`, undecremented, changing nothing else (R195, R196; decisions
D6, D12). -/
def Obligations.TimerWritesSetTheTimer : Prop :=
  ∀ (x : Reg) (s : State),
    (∃ t, exec (.loadDelayReg x) s = .next t ∧ t.dt = s.getV x ∧ DataKept s t ∧ t.pc = s.pc ∧ t.i = s.i ∧
      t.st = s.st ∧ t.stack = s.stack) ∧
    (∃ t, exec (.loadSoundReg x) s = .next t ∧ t.st = s.getV x ∧ DataKept s t ∧ t.pc = s.pc ∧ t.i = s.i ∧
      t.dt = s.dt ∧ t.stack = s.stack)

/-- AddAddress adds `Vx` to I modulo 65536, LoadDigitSprite sets I to 5 times the whole `Vx`; both complete on every state and change
nothing but I, VF included (R197, R198; decisions D6, D17, D20). -/
def Obligations.AddressInstructionsWriteIOnly : Prop :=
  ∀ (x : Reg) (s : State),
    (∃ t, exec (.addAddress x) s = .next t ∧ t.i.toNat = (s.i.toNat + (s.getV x).toNat) % 65536 ∧ DataKept s t ∧
      t.pc = s.pc ∧ t.dt = s.dt ∧ t.st = s.st ∧ t.stack = s.stack) ∧
    (∃ t, exec (.loadDigitSprite x) s = .next t ∧ t.i.toNat = 5 * (s.getV x).toNat ∧ DataKept s t ∧
      t.pc = s.pc ∧ t.dt = s.dt ∧ t.st = s.st ∧ t.stack = s.stack)

/-- StoreBcd stores three decimal digits that make up `Vx`, hundreds first, at I, I + 1 and I + 2 and changes no other byte and no
register, when the bytes lie in memory; else it faults with `AddressOutOfRange(I, 3)` (R199; decision D6). -/
def Obligations.StoreBcdStoresTheDecimalDigits : Prop :=
  ∀ (x : Reg) (s : State), s.mem.wf →
    (s.i.toNat + 2 ≤ 4095 →
      ∃ t, exec (.storeBcd x) s = .next t ∧ OnlyMemory s.i.toNat 3 s t ∧
        100 * (t.readByte s.i.toNat).toNat + 10 * (t.readByte (s.i.toNat + 1)).toNat +
          (t.readByte (s.i.toNat + 2)).toNat = (s.getV x).toNat ∧
        (t.readByte s.i.toNat).toNat ≤ 9 ∧ (t.readByte (s.i.toNat + 1)).toNat ≤ 9 ∧
        (t.readByte (s.i.toNat + 2)).toNat ≤ 9) ∧
    (4095 < s.i.toNat + 2 →
      exec (.storeBcd x) s =
        .fault (.raised (.addressOutOfRange s.i.toNat 3)
          { s with fault := some (.addressOutOfRange s.i.toNat 3) }))
end

