-- ==== Sys2Proof/Laws/Encoding.lean ====
section
/-! SUPPORT. The fields of an assembled opcode are what it was assembled from, and an opcode is its fields. -/

namespace Sys2Proof

@[simp] theorem indexOf_nibbleOf (r : Fin 16) : indexOf (nibbleOf r) = r := rfl

@[simp] theorem nibbleOf_indexOf (b : BitVec 4) : nibbleOf (indexOf b) = b := rfl

/-- The bytes of an opcode joined again (R55). -/
@[simp] theorem joinBytes_high_low (op : Word) : joinBytes (highByte op) (lowByte op) = op := by
  apply BitVec.eq_of_getLsbD_eq
  intro k hk
  simp only [joinBytes, highByte, lowByte, BitVec.getLsbD_append, BitVec.getLsbD_extractLsb']
  by_cases h : k < 8
  · simp [h]
  · have h8 : k - 8 < 8 := by omega
    simp [h, h8, show 8 + (k - 8) = k by omega]

/-- An opcode as a number: the byte at the lower address is the high-order byte (R55). -/
theorem joinBytes_toNat (b0 b1 : Byte) : (joinBytes b0 b1).toNat = 256 * b0.toNat + b1.toNat := by
  have h1 := b1.isLt
  rw [joinBytes, BitVec.toNat_append, ← Nat.shiftLeft_add_eq_or_of_lt h1, Nat.shiftLeft_eq]
  omega

/-! ## The fields of each format -/

/-- The bits of the ADDR format. -/
theorem formatAddr_bit (f : BitVec 4) (a : Addr12) (k : Nat) :
    (formatAddr f a).getLsbD k = if k < 12 then a.getLsbD k else f.getLsbD (k - 12) := by
  simp only [formatAddr, BitVec.getLsbD_append]

/-- The bits of the XKK format. -/
theorem formatXKK_bit (f : BitVec 4) (x : Reg) (kk : Byte) (k : Nat) :
    (formatXKK f x kk).getLsbD k =
      if k < 8 then kk.getLsbD k else if k < 12 then (nibbleOf x).getLsbD (k - 8) else f.getLsbD (k - 12) := by
  simp only [formatXKK, BitVec.getLsbD_append]
  by_cases h : k < 8
  · simp [h]
  · by_cases h2 : k < 12
    · simp [h, h2, show k - 8 < 4 by omega]
    · simp [h, h2, show ¬ k - 8 < 4 by omega, show k - 8 - 4 = k - 12 by omega]

/-- The bits of the XYS and XYN formats. -/
theorem formatXYN_bit (f : BitVec 4) (x y : Reg) (n : BitVec 4) (k : Nat) :
    (formatXYN f x y n).getLsbD k =
      if k < 4 then n.getLsbD k else if k < 8 then (nibbleOf y).getLsbD (k - 4)
      else if k < 12 then (nibbleOf x).getLsbD (k - 8) else f.getLsbD (k - 12) := by
  simp only [formatXYN, BitVec.getLsbD_append]
  by_cases h : k < 4
  · simp [h]
  · by_cases h2 : k < 8
    · simp [h, h2, show k - 4 < 4 by omega]
    · by_cases h3 : k < 12
      · simp [h, h2, h3, show ¬ k - 4 < 4 by omega, show k - 4 - 4 = k - 8 by omega, show k - 8 < 4 by omega]
      · simp [h, h2, h3, show ¬ k - 4 < 4 by omega, show k - 4 - 4 = k - 8 by omega, show ¬ k - 8 < 4 by omega,
          show k - 8 - 4 = k - 12 by omega]

/-- A field is determined by its bits. -/
theorem field_eq {w start len : Nat} {op : BitVec w} {b : BitVec len} (h : ∀ k < len, op.getLsbD (start + k) = b.getLsbD k) :
    op.extractLsb' start len = b := by
  apply BitVec.eq_of_getLsbD_eq
  intro k hk
  simp [hk, h k hk]

@[simp] theorem formatAddr_family (f : BitVec 4) (a : Addr12) : fieldFamily (formatAddr f a) = f :=
  field_eq fun k hk => by simp [formatAddr_bit]

@[simp] theorem formatAddr_addr (f : BitVec 4) (a : Addr12) : fieldAddr (formatAddr f a) = a :=
  field_eq fun k hk => by simp [formatAddr_bit, hk]

@[simp] theorem formatXKK_family (f : BitVec 4) (x : Reg) (kk : Byte) : fieldFamily (formatXKK f x kk) = f :=
  field_eq fun k hk => by simp [formatXKK_bit, show ¬ 12 + k < 8 by omega]

@[simp] theorem formatXKK_x (f : BitVec 4) (x : Reg) (kk : Byte) : fieldX (formatXKK f x kk) = x := by
  rw [fieldX, field_eq (b := nibbleOf x) fun k hk => by simp [formatXKK_bit, show 8 + k < 12 by omega]]
  rfl

@[simp] theorem formatXKK_kk (f : BitVec 4) (x : Reg) (kk : Byte) : fieldKK (formatXKK f x kk) = kk :=
  field_eq fun k hk => by simp [formatXKK_bit, hk]

@[simp] theorem formatXYN_family (f : BitVec 4) (x y : Reg) (n : BitVec 4) : fieldFamily (formatXYN f x y n) = f :=
  field_eq fun k hk => by simp [formatXYN_bit, show ¬ 12 + k < 4 by omega, show ¬ 12 + k < 8 by omega]

@[simp] theorem formatXYN_x (f : BitVec 4) (x y : Reg) (n : BitVec 4) : fieldX (formatXYN f x y n) = x := by
  rw [fieldX, field_eq (b := nibbleOf x) fun k hk => by
    simp [formatXYN_bit, show ¬ 8 + k < 4 by omega, show 8 + k < 12 by omega]]
  rfl

@[simp] theorem formatXYN_y (f : BitVec 4) (x y : Reg) (n : BitVec 4) : fieldY (formatXYN f x y n) = y := by
  rw [fieldY, field_eq (b := nibbleOf y) fun k hk => by simp [formatXYN_bit, show 4 + k < 8 by omega]]
  rfl

@[simp] theorem formatXYN_sub (f : BitVec 4) (x y : Reg) (n : BitVec 4) : fieldSub (formatXYN f x y n) = n :=
  field_eq fun k hk => by simp [formatXYN_bit, hk]

@[simp] theorem formatXYN_n (f : BitVec 4) (x y : Reg) (n : BitVec 4) : fieldN (formatXYN f x y n) = indexOf n := by
  rw [fieldN, field_eq (b := n) fun k hk => by simp [formatXYN_bit, hk]]

/-! ## An opcode is its fields -/

/-- Every opcode is in the ADDR format of its fields. -/
theorem formatAddr_fields (op : Word) : formatAddr (fieldFamily op) (fieldAddr op) = op := by
  apply BitVec.eq_of_getLsbD_eq
  intro k hk
  rw [formatAddr_bit]
  split
  · next h => simp [fieldAddr, h]
  · next h =>
    simp [fieldFamily, show k - 12 < 4 by omega, show 12 + (k - 12) = k by omega]

/-- Every opcode is in the XKK format of its fields. -/
theorem formatXKK_fields (op : Word) : formatXKK (fieldFamily op) (fieldX op) (fieldKK op) = op := by
  apply BitVec.eq_of_getLsbD_eq
  intro k hk
  rw [formatXKK_bit]
  split
  · next h => simp [fieldKK, h]
  · split
    · next h h2 =>
      simp [fieldX, show k - 8 < 4 by omega, show 8 + (k - 8) = k by omega]
    · next h h2 =>
      simp [fieldFamily, show k - 12 < 4 by omega, show 12 + (k - 12) = k by omega]

/-- Every opcode is in the XYS format of its fields. -/
theorem formatXYN_fields (op : Word) : formatXYN (fieldFamily op) (fieldX op) (fieldY op) (fieldSub op) = op := by
  apply BitVec.eq_of_getLsbD_eq
  intro k hk
  rw [formatXYN_bit]
  split
  · next h => simp [fieldSub, h]
  · split
    · next h h2 =>
      simp [fieldY, show k - 4 < 4 by omega, show 4 + (k - 4) = k by omega]
    · split
      · next h h2 h3 =>
        simp [fieldX, show k - 8 < 4 by omega, show 8 + (k - 8) = k by omega]
      · next h h2 h3 =>
        simp [fieldFamily, show k - 12 < 4 by omega, show 12 + (k - 12) = k by omega]

/-- The count field is the sub-opcode nibble as an index. -/
theorem fieldN_eq_fieldSub (op : Word) : fieldN op = indexOf (fieldSub op) := rfl

/-- A decode failure carries the opcode itself (R73). -/
theorem decode_failure {op bad : Word} (h : decode op = .failure bad) : bad = op := by
  unfold decode decodeFamily8 decodeFamilyE decodeFamilyF at h
  repeat' split at h
  all_goals first | exact (Decoded.failure.inj h).symm | exact Decoded.noConfusion h

end Sys2Proof
end

