-- ==== Sys2Proof/Laws/Memory.lean ====
section
/-! SUPPORT. The laws of the memory: read after write, and that every operation keeps the canonical form. -/

namespace Sys2Proof.Machine

namespace Memory

@[simp] theorem read_nil (a : Nat) : read [] a = unlisted := rfl

@[simp] theorem read_cons_same (a : Nat) (b : Byte) (m : Memory) : read ((a, b) :: m) a = b := by
  simp [read]

theorem read_cons_other {k a : Nat} (b : Byte) (m : Memory) (h : k ≠ a) : read ((k, b) :: m) a = read m a := by
  simp [read, h]

/-- An address below every listed one reads as unlisted. -/
theorem read_below {m : Memory} {a : Nat} (h : ∀ p ∈ m, a < p.1) : read m a = unlisted := by
  induction m with
  | nil => rfl
  | cons p m ih =>
    obtain ⟨k, b⟩ := p
    have hk : a < k := h (k, b) (by simp)
    rw [read_cons_other b m (by omega)]
    exact ih fun q hq => h q (by simp [hq])

/-- A write leaves every other address alone, in any memory. -/
theorem read_write_other {m : Memory} {a c : Nat} (b : Byte) (h : a ≠ c) : (m.write a b).read c = m.read c := by
  induction m with
  | nil =>
    simp only [write]
    split
    · rfl
    · exact read_cons_other b [] h
  | cons p m ih =>
    obtain ⟨k, d⟩ := p
    simp only [write]
    by_cases hlt : a < k
    · rw [if_pos hlt]
      split
      · rfl
      · exact read_cons_other b _ h
    · rw [if_neg hlt]
      by_cases heq : a = k
      · subst heq
        rw [if_pos rfl]
        split
        · exact (read_cons_other d m h).symm
        · rw [read_cons_other b m h, read_cons_other d m h]
      · rw [if_neg heq]
        simp only [read]
        split
        · rfl
        · exact ih

/-- A read after a write to the same address gives the byte written. -/
theorem read_write_same {m : Memory} (a : Nat) (b : Byte) (h : m.Pairwise fun p q => p.1 < q.1) :
    (m.write a b).read a = b := by
  induction m with
  | nil =>
    simp only [write]
    split
    · next hb => exact hb.symm
    · exact read_cons_same a b []
  | cons p m ih =>
    obtain ⟨k, d⟩ := p
    obtain ⟨hk, hm⟩ := List.pairwise_cons.mp h
    simp only [write]
    by_cases hlt : a < k
    · rw [if_pos hlt]
      split
      · next hb =>
        rw [hb]
        refine read_below fun q hq => ?_
        rcases List.mem_cons.mp hq with rfl | hq
        · exact hlt
        · exact Nat.lt_trans hlt (hk q hq)
      · exact read_cons_same a b _
    · rw [if_neg hlt]
      by_cases heq : a = k
      · subst heq
        rw [if_pos rfl]
        split
        · next hb => rw [hb]; exact read_below hk
        · exact read_cons_same a b m
      · rw [if_neg heq, read_cons_other d _ (Ne.symm heq)]
        exact ih hm

/-- What a written memory lists: the written byte, or what was listed before. -/
theorem mem_write {m : Memory} {a : Nat} {b : Byte} {p : Host.Cell} (h : p ∈ m.write a b) :
    (p = (a, b) ∧ b ≠ unlisted) ∨ p ∈ m := by
  induction m with
  | nil =>
    simp only [write] at h
    split at h
    · simp at h
    · next hb => exact .inl ⟨by simpa using h, hb⟩
  | cons q m ih =>
    obtain ⟨k, d⟩ := q
    simp only [write] at h
    split at h
    · split at h
      · exact .inr h
      · next hb =>
        rcases List.mem_cons.mp h with h | h
        · exact .inl ⟨h, hb⟩
        · exact .inr h
    · split at h
      · split at h
        · exact .inr (List.mem_cons_of_mem _ h)
        · next hb =>
          rcases List.mem_cons.mp h with h | h
          · exact .inl ⟨h, hb⟩
          · exact .inr (List.mem_cons_of_mem _ h)
      · rcases List.mem_cons.mp h with h | h
        · exact .inr (by simp [h])
        · rcases ih h with h | h
          · exact .inl h
          · exact .inr (List.mem_cons_of_mem _ h)

/-- A write keeps the addresses rising. -/
theorem pairwise_write {m : Memory} (a : Nat) (b : Byte) (h : m.Pairwise fun p q => p.1 < q.1) :
    (m.write a b).Pairwise fun p q => p.1 < q.1 := by
  induction m with
  | nil => simp only [write]; split <;> simp
  | cons p m ih =>
    obtain ⟨k, d⟩ := p
    obtain ⟨hk, hm⟩ := List.pairwise_cons.mp h
    simp only [write]
    by_cases hlt : a < k
    · rw [if_pos hlt]
      split
      · exact h
      · refine List.pairwise_cons.mpr ⟨fun q hq => ?_, h⟩
        rcases List.mem_cons.mp hq with rfl | hq
        · exact hlt
        · exact Nat.lt_trans hlt (hk q hq)
    · rw [if_neg hlt]
      by_cases heq : a = k
      · subst heq
        rw [if_pos rfl]
        split
        · exact hm
        · exact List.pairwise_cons.mpr ⟨hk, hm⟩
      · rw [if_neg heq]
        refine List.pairwise_cons.mpr ⟨fun q hq => ?_, ih hm⟩
        rcases mem_write hq with ⟨rfl, -⟩ | hq
        · show k < a
          omega
        · exact hk q hq

/-- A write inside the memory keeps the canonical form. -/
theorem wf_write {m : Memory} {a : Nat} (b : Byte) (ha : a < Config.memSize) (h : m.wf) : (m.write a b).wf := by
  refine ⟨pairwise_write a b h.1, fun p hp => ?_⟩
  rcases mem_write hp with ⟨rfl, hb⟩ | hp
  · exact ⟨ha, hb⟩
  · exact h.2 p hp

/-- A run of writes inside the memory keeps the canonical form. -/
theorem wf_writeAll {m : Memory} {a : Nat} {bs : List Byte} (ha : a + bs.length ≤ Config.memSize) (h : m.wf) :
    (m.writeAll a bs).wf := by
  induction bs generalizing m a with
  | nil => exact h
  | cons b bs ih =>
    simp only [List.length_cons] at ha
    exact ih (by omega) (wf_write b (by omega) h)

/-- A run of writes leaves every address outside it alone, in any memory. -/
theorem read_writeAll_outside {m : Memory} {a c : Nat} {bs : List Byte} (h : c < a ∨ a + bs.length ≤ c) :
    (m.writeAll a bs).read c = m.read c := by
  induction bs generalizing m a with
  | nil => rfl
  | cons b bs ih =>
    simp only [List.length_cons] at h
    rw [writeAll, ih (by omega), read_write_other b (by omega)]

/-- A run of writes stores its k-th byte at its k-th address. -/
theorem read_writeAll_inside {m : Memory} {a k : Nat} {bs : List Byte} (h : m.Pairwise fun p q => p.1 < q.1)
    (hk : k < bs.length) : (m.writeAll a bs).read (a + k) = bs[k] := by
  induction bs generalizing m a k with
  | nil => simp at hk
  | cons b bs ih =>
    rw [writeAll]
    cases k with
    | zero =>
      rw [read_writeAll_outside (.inl (by omega)), Nat.add_zero, read_write_same a b h]
      rfl
    | succ k =>
      have hk' : k < bs.length := by simpa using hk
      rw [show a + (k + 1) = (a + 1) + k by omega, ih (pairwise_write a b h) hk']
      rfl

/-- Canonical memories that read the same are the same list. -/
theorem ext_of_read {m n : Memory} (hm : m.wf) (hn : n.wf) (h : ∀ a, m.read a = n.read a) : m = n := by
  induction m generalizing n with
  | nil =>
    cases n with
    | nil => rfl
    | cons q n =>
      obtain ⟨k, b⟩ := q
      have := h k
      rw [read_nil, read_cons_same] at this
      exact absurd this.symm (hn.2 (k, b) (by simp)).2
  | cons p m ih =>
    obtain ⟨k, b⟩ := p
    obtain ⟨hk, hm'⟩ := List.pairwise_cons.mp hm.1
    have hb : b ≠ unlisted := (hm.2 (k, b) (by simp)).2
    cases n with
    | nil =>
      have := h k
      rw [read_nil, read_cons_same] at this
      exact absurd this hb
    | cons q n =>
      obtain ⟨l, c⟩ := q
      obtain ⟨hl, hn'⟩ := List.pairwise_cons.mp hn.1
      have hc : c ≠ unlisted := (hn.2 (l, c) (by simp)).2
      have hkl : k = l := by
        rcases Nat.lt_trichotomy k l with hlt | heq | hlt
        · have hr := h k
          rw [read_cons_same, read_cons_other c n (by omega),
            read_below fun r hr => Nat.lt_trans hlt (hl r hr)] at hr
          exact absurd hr hb
        · exact heq
        · have hr := h l
          rw [read_cons_same, read_cons_other b m (by omega),
            read_below fun r hr => Nat.lt_trans hlt (hk r hr)] at hr
          exact absurd hr.symm hc
      subst hkl
      have hbc : b = c := by simpa using h k
      subst hbc
      have : m = n := by
        refine ih ⟨hm', fun p hp => hm.2 p (by simp [hp])⟩ ⟨hn', fun p hp => hn.2 p (by simp [hp])⟩ fun a => ?_
        by_cases ha : k = a
        · subst ha
          rw [read_below hk, read_below hl]
        · simpa [read_cons_other b _ ha] using h a
      rw [this]

end Memory

/-! ## The checked accesses (R52, R53) -/

theorem inRange_iff (addr n : Nat) : inRange addr n = true ↔ n = 0 ∨ addr + n ≤ 4096 := by
  unfold inRange Config.memSize
  simp

/-- Everything `memRead` can answer. -/
theorem memRead_cases (m : Memory) (addr n : Nat) :
    ((n = 0 ∨ addr + n ≤ 4096) ∧ memRead m addr n = some ((List.range n).map fun k => m.read (addr + k))) ∨
      (n ≠ 0 ∧ 4096 < addr + n ∧ memRead m addr n = none) := by
  unfold memRead
  by_cases h : inRange addr n = true
  · exact .inl ⟨(inRange_iff addr n).mp h, if_pos h⟩
  · refine .inr ?_
    have := mt (inRange_iff addr n).mpr h
    exact ⟨by omega, by omega, if_neg h⟩

/-- A checked read that answers gives n bytes, the k-th from the k-th address. -/
theorem memRead_getElem {m : Memory} {addr n : Nat} {bs : List Byte} (h : memRead m addr n = some bs) :
    ∃ hl : bs.length = n, ∀ (k : Nat) (hk : k < n), bs[k]'(by omega) = m.read (addr + k) := by
  unfold memRead at h
  split at h
  · cases h
    exact ⟨by simp, by simp⟩
  · cases h

/-- Everything `memWrite` can answer. -/
theorem memWrite_cases (m : Memory) (addr : Nat) (bs : List Byte) :
    ((bs = [] ∨ addr + bs.length ≤ 4096) ∧ memWrite m addr bs = some (m.writeAll addr bs)) ∨
      (bs ≠ [] ∧ 4096 < addr + bs.length ∧ memWrite m addr bs = none) := by
  unfold memWrite
  by_cases h : inRange addr bs.length = true
  · refine .inl ⟨?_, if_pos h⟩
    rcases (inRange_iff addr bs.length).mp h with h | h
    · exact .inl (List.length_eq_zero_iff.mp h)
    · exact .inr h
  · refine .inr ?_
    have := mt (inRange_iff addr bs.length).mpr h
    exact ⟨fun hb => this (.inl (by simp [hb])), by omega, if_neg h⟩

/-- A checked write keeps the canonical form. -/
theorem memWrite_wf {m m' : Memory} {addr : Nat} {bs : List Byte} (hm : m.wf) (h : memWrite m addr bs = some m') :
    m'.wf := by
  rcases memWrite_cases m addr bs with ⟨hr, he⟩ | ⟨-, -, he⟩
  · rw [he, Option.some.injEq] at h
    subst h
    rcases hr with rfl | hr
    · exact hm
    · exact Memory.wf_writeAll hr hm
  · simp [he] at h

/-- The memory after reset is canonical. -/
theorem reset_mem_wf : State.reset.mem.wf := by decide

end Sys2Proof.Machine
end

