-- ==== Sys2Proof/Laws/State.lean ====
section
/-! SUPPORT. What each named update leaves in each field of State, so that no later proof unfolds an update. -/

namespace Sys2Proof.Machine

/-! ### setV -/

@[simp] theorem State.setV_v (s : State) (r : Reg) (b : Byte) : (s.setV r b).v = s.v.set r b := rfl
@[simp] theorem State.setV_i (s : State) (r : Reg) (b : Byte) : (s.setV r b).i = s.i := rfl
@[simp] theorem State.setV_pc (s : State) (r : Reg) (b : Byte) : (s.setV r b).pc = s.pc := rfl
@[simp] theorem State.setV_dt (s : State) (r : Reg) (b : Byte) : (s.setV r b).dt = s.dt := rfl
@[simp] theorem State.setV_st (s : State) (r : Reg) (b : Byte) : (s.setV r b).st = s.st := rfl
@[simp] theorem State.setV_stack (s : State) (r : Reg) (b : Byte) : (s.setV r b).stack = s.stack := rfl
@[simp] theorem State.setV_mem (s : State) (r : Reg) (b : Byte) : (s.setV r b).mem = s.mem := rfl
@[simp] theorem State.setV_display (s : State) (r : Reg) (b : Byte) : (s.setV r b).display = s.display := rfl
@[simp] theorem State.setV_fault (s : State) (r : Reg) (b : Byte) : (s.setV r b).fault = s.fault := rfl
@[simp] theorem State.setV_params (s : State) (r : Reg) (b : Byte) : (s.setV r b).params = s.params := rfl
@[simp] theorem State.setV_input (s : State) (r : Reg) (b : Byte) : (s.setV r b).input = s.input := rfl
@[simp] theorem State.setV_pending (s : State) (r : Reg) (b : Byte) : (s.setV r b).pending = s.pending := rfl
@[simp] theorem State.setV_drawn (s : State) (r : Reg) (b : Byte) : (s.setV r b).drawn = s.drawn := rfl
@[simp] theorem State.setV_flush (s : State) (r : Reg) (b : Byte) : (s.setV r b).flush = s.flush := rfl

/-! ### setI -/

@[simp] theorem State.setI_v (s : State) (w : Word) : (s.setI w).v = s.v := rfl
@[simp] theorem State.setI_i (s : State) (w : Word) : (s.setI w).i = w := rfl
@[simp] theorem State.setI_pc (s : State) (w : Word) : (s.setI w).pc = s.pc := rfl
@[simp] theorem State.setI_dt (s : State) (w : Word) : (s.setI w).dt = s.dt := rfl
@[simp] theorem State.setI_st (s : State) (w : Word) : (s.setI w).st = s.st := rfl
@[simp] theorem State.setI_stack (s : State) (w : Word) : (s.setI w).stack = s.stack := rfl
@[simp] theorem State.setI_mem (s : State) (w : Word) : (s.setI w).mem = s.mem := rfl
@[simp] theorem State.setI_display (s : State) (w : Word) : (s.setI w).display = s.display := rfl
@[simp] theorem State.setI_fault (s : State) (w : Word) : (s.setI w).fault = s.fault := rfl
@[simp] theorem State.setI_params (s : State) (w : Word) : (s.setI w).params = s.params := rfl
@[simp] theorem State.setI_input (s : State) (w : Word) : (s.setI w).input = s.input := rfl
@[simp] theorem State.setI_pending (s : State) (w : Word) : (s.setI w).pending = s.pending := rfl
@[simp] theorem State.setI_drawn (s : State) (w : Word) : (s.setI w).drawn = s.drawn := rfl
@[simp] theorem State.setI_flush (s : State) (w : Word) : (s.setI w).flush = s.flush := rfl

/-! ### setPc -/

@[simp] theorem State.setPc_v (s : State) (w : Word) : (s.setPc w).v = s.v := rfl
@[simp] theorem State.setPc_i (s : State) (w : Word) : (s.setPc w).i = s.i := rfl
@[simp] theorem State.setPc_pc (s : State) (w : Word) : (s.setPc w).pc = w := rfl
@[simp] theorem State.setPc_dt (s : State) (w : Word) : (s.setPc w).dt = s.dt := rfl
@[simp] theorem State.setPc_st (s : State) (w : Word) : (s.setPc w).st = s.st := rfl
@[simp] theorem State.setPc_stack (s : State) (w : Word) : (s.setPc w).stack = s.stack := rfl
@[simp] theorem State.setPc_mem (s : State) (w : Word) : (s.setPc w).mem = s.mem := rfl
@[simp] theorem State.setPc_display (s : State) (w : Word) : (s.setPc w).display = s.display := rfl
@[simp] theorem State.setPc_fault (s : State) (w : Word) : (s.setPc w).fault = s.fault := rfl
@[simp] theorem State.setPc_params (s : State) (w : Word) : (s.setPc w).params = s.params := rfl
@[simp] theorem State.setPc_input (s : State) (w : Word) : (s.setPc w).input = s.input := rfl
@[simp] theorem State.setPc_pending (s : State) (w : Word) : (s.setPc w).pending = s.pending := rfl
@[simp] theorem State.setPc_drawn (s : State) (w : Word) : (s.setPc w).drawn = s.drawn := rfl
@[simp] theorem State.setPc_flush (s : State) (w : Word) : (s.setPc w).flush = s.flush := rfl

/-! ### setDt -/

@[simp] theorem State.setDt_v (s : State) (b : Byte) : (s.setDt b).v = s.v := rfl
@[simp] theorem State.setDt_i (s : State) (b : Byte) : (s.setDt b).i = s.i := rfl
@[simp] theorem State.setDt_pc (s : State) (b : Byte) : (s.setDt b).pc = s.pc := rfl
@[simp] theorem State.setDt_dt (s : State) (b : Byte) : (s.setDt b).dt = b := rfl
@[simp] theorem State.setDt_st (s : State) (b : Byte) : (s.setDt b).st = s.st := rfl
@[simp] theorem State.setDt_stack (s : State) (b : Byte) : (s.setDt b).stack = s.stack := rfl
@[simp] theorem State.setDt_mem (s : State) (b : Byte) : (s.setDt b).mem = s.mem := rfl
@[simp] theorem State.setDt_display (s : State) (b : Byte) : (s.setDt b).display = s.display := rfl
@[simp] theorem State.setDt_fault (s : State) (b : Byte) : (s.setDt b).fault = s.fault := rfl
@[simp] theorem State.setDt_params (s : State) (b : Byte) : (s.setDt b).params = s.params := rfl
@[simp] theorem State.setDt_input (s : State) (b : Byte) : (s.setDt b).input = s.input := rfl
@[simp] theorem State.setDt_pending (s : State) (b : Byte) : (s.setDt b).pending = s.pending := rfl
@[simp] theorem State.setDt_drawn (s : State) (b : Byte) : (s.setDt b).drawn = s.drawn := rfl
@[simp] theorem State.setDt_flush (s : State) (b : Byte) : (s.setDt b).flush = s.flush := rfl

/-! ### setSt -/

@[simp] theorem State.setSt_v (s : State) (b : Byte) : (s.setSt b).v = s.v := rfl
@[simp] theorem State.setSt_i (s : State) (b : Byte) : (s.setSt b).i = s.i := rfl
@[simp] theorem State.setSt_pc (s : State) (b : Byte) : (s.setSt b).pc = s.pc := rfl
@[simp] theorem State.setSt_dt (s : State) (b : Byte) : (s.setSt b).dt = s.dt := rfl
@[simp] theorem State.setSt_st (s : State) (b : Byte) : (s.setSt b).st = b := rfl
@[simp] theorem State.setSt_stack (s : State) (b : Byte) : (s.setSt b).stack = s.stack := rfl
@[simp] theorem State.setSt_mem (s : State) (b : Byte) : (s.setSt b).mem = s.mem := rfl
@[simp] theorem State.setSt_display (s : State) (b : Byte) : (s.setSt b).display = s.display := rfl
@[simp] theorem State.setSt_fault (s : State) (b : Byte) : (s.setSt b).fault = s.fault := rfl
@[simp] theorem State.setSt_params (s : State) (b : Byte) : (s.setSt b).params = s.params := rfl
@[simp] theorem State.setSt_input (s : State) (b : Byte) : (s.setSt b).input = s.input := rfl
@[simp] theorem State.setSt_pending (s : State) (b : Byte) : (s.setSt b).pending = s.pending := rfl
@[simp] theorem State.setSt_drawn (s : State) (b : Byte) : (s.setSt b).drawn = s.drawn := rfl
@[simp] theorem State.setSt_flush (s : State) (b : Byte) : (s.setSt b).flush = s.flush := rfl

/-! ### setStack -/

@[simp] theorem State.setStack_v (s : State) (l : List Word) : (s.setStack l).v = s.v := rfl
@[simp] theorem State.setStack_i (s : State) (l : List Word) : (s.setStack l).i = s.i := rfl
@[simp] theorem State.setStack_pc (s : State) (l : List Word) : (s.setStack l).pc = s.pc := rfl
@[simp] theorem State.setStack_dt (s : State) (l : List Word) : (s.setStack l).dt = s.dt := rfl
@[simp] theorem State.setStack_st (s : State) (l : List Word) : (s.setStack l).st = s.st := rfl
@[simp] theorem State.setStack_stack (s : State) (l : List Word) : (s.setStack l).stack = l := rfl
@[simp] theorem State.setStack_mem (s : State) (l : List Word) : (s.setStack l).mem = s.mem := rfl
@[simp] theorem State.setStack_display (s : State) (l : List Word) : (s.setStack l).display = s.display := rfl
@[simp] theorem State.setStack_fault (s : State) (l : List Word) : (s.setStack l).fault = s.fault := rfl
@[simp] theorem State.setStack_params (s : State) (l : List Word) : (s.setStack l).params = s.params := rfl
@[simp] theorem State.setStack_input (s : State) (l : List Word) : (s.setStack l).input = s.input := rfl
@[simp] theorem State.setStack_pending (s : State) (l : List Word) : (s.setStack l).pending = s.pending := rfl
@[simp] theorem State.setStack_drawn (s : State) (l : List Word) : (s.setStack l).drawn = s.drawn := rfl
@[simp] theorem State.setStack_flush (s : State) (l : List Word) : (s.setStack l).flush = s.flush := rfl

/-! ### setMem -/

@[simp] theorem State.setMem_v (s : State) (m : Memory) : (s.setMem m).v = s.v := rfl
@[simp] theorem State.setMem_i (s : State) (m : Memory) : (s.setMem m).i = s.i := rfl
@[simp] theorem State.setMem_pc (s : State) (m : Memory) : (s.setMem m).pc = s.pc := rfl
@[simp] theorem State.setMem_dt (s : State) (m : Memory) : (s.setMem m).dt = s.dt := rfl
@[simp] theorem State.setMem_st (s : State) (m : Memory) : (s.setMem m).st = s.st := rfl
@[simp] theorem State.setMem_stack (s : State) (m : Memory) : (s.setMem m).stack = s.stack := rfl
@[simp] theorem State.setMem_mem (s : State) (m : Memory) : (s.setMem m).mem = m := rfl
@[simp] theorem State.setMem_display (s : State) (m : Memory) : (s.setMem m).display = s.display := rfl
@[simp] theorem State.setMem_fault (s : State) (m : Memory) : (s.setMem m).fault = s.fault := rfl
@[simp] theorem State.setMem_params (s : State) (m : Memory) : (s.setMem m).params = s.params := rfl
@[simp] theorem State.setMem_input (s : State) (m : Memory) : (s.setMem m).input = s.input := rfl
@[simp] theorem State.setMem_pending (s : State) (m : Memory) : (s.setMem m).pending = s.pending := rfl
@[simp] theorem State.setMem_drawn (s : State) (m : Memory) : (s.setMem m).drawn = s.drawn := rfl
@[simp] theorem State.setMem_flush (s : State) (m : Memory) : (s.setMem m).flush = s.flush := rfl

/-! ### setDisplay -/

@[simp] theorem State.setDisplay_v (s : State) (d : Vector Row 32) : (s.setDisplay d).v = s.v := rfl
@[simp] theorem State.setDisplay_i (s : State) (d : Vector Row 32) : (s.setDisplay d).i = s.i := rfl
@[simp] theorem State.setDisplay_pc (s : State) (d : Vector Row 32) : (s.setDisplay d).pc = s.pc := rfl
@[simp] theorem State.setDisplay_dt (s : State) (d : Vector Row 32) : (s.setDisplay d).dt = s.dt := rfl
@[simp] theorem State.setDisplay_st (s : State) (d : Vector Row 32) : (s.setDisplay d).st = s.st := rfl
@[simp] theorem State.setDisplay_stack (s : State) (d : Vector Row 32) : (s.setDisplay d).stack = s.stack := rfl
@[simp] theorem State.setDisplay_mem (s : State) (d : Vector Row 32) : (s.setDisplay d).mem = s.mem := rfl
@[simp] theorem State.setDisplay_display (s : State) (d : Vector Row 32) : (s.setDisplay d).display = d := rfl
@[simp] theorem State.setDisplay_fault (s : State) (d : Vector Row 32) : (s.setDisplay d).fault = s.fault := rfl
@[simp] theorem State.setDisplay_params (s : State) (d : Vector Row 32) : (s.setDisplay d).params = s.params := rfl
@[simp] theorem State.setDisplay_input (s : State) (d : Vector Row 32) : (s.setDisplay d).input = s.input := rfl
@[simp] theorem State.setDisplay_pending (s : State) (d : Vector Row 32) : (s.setDisplay d).pending = s.pending := rfl
@[simp] theorem State.setDisplay_drawn (s : State) (d : Vector Row 32) : (s.setDisplay d).drawn = s.drawn := rfl
@[simp] theorem State.setDisplay_flush (s : State) (d : Vector Row 32) : (s.setDisplay d).flush = s.flush := rfl

/-! ### setFlush -/

@[simp] theorem State.setFlush_v (s : State) (b : Bool) : (s.setFlush b).v = s.v := rfl
@[simp] theorem State.setFlush_i (s : State) (b : Bool) : (s.setFlush b).i = s.i := rfl
@[simp] theorem State.setFlush_pc (s : State) (b : Bool) : (s.setFlush b).pc = s.pc := rfl
@[simp] theorem State.setFlush_dt (s : State) (b : Bool) : (s.setFlush b).dt = s.dt := rfl
@[simp] theorem State.setFlush_st (s : State) (b : Bool) : (s.setFlush b).st = s.st := rfl
@[simp] theorem State.setFlush_stack (s : State) (b : Bool) : (s.setFlush b).stack = s.stack := rfl
@[simp] theorem State.setFlush_mem (s : State) (b : Bool) : (s.setFlush b).mem = s.mem := rfl
@[simp] theorem State.setFlush_display (s : State) (b : Bool) : (s.setFlush b).display = s.display := rfl
@[simp] theorem State.setFlush_fault (s : State) (b : Bool) : (s.setFlush b).fault = s.fault := rfl
@[simp] theorem State.setFlush_params (s : State) (b : Bool) : (s.setFlush b).params = s.params := rfl
@[simp] theorem State.setFlush_input (s : State) (b : Bool) : (s.setFlush b).input = s.input := rfl
@[simp] theorem State.setFlush_pending (s : State) (b : Bool) : (s.setFlush b).pending = s.pending := rfl
@[simp] theorem State.setFlush_drawn (s : State) (b : Bool) : (s.setFlush b).drawn = s.drawn := rfl
@[simp] theorem State.setFlush_flush (s : State) (b : Bool) : (s.setFlush b).flush = b := rfl

/-! ### latch -/

@[simp] theorem State.latch_v (s : State) (f : FaultRecord) : (s.latch f).v = s.v := rfl
@[simp] theorem State.latch_i (s : State) (f : FaultRecord) : (s.latch f).i = s.i := rfl
@[simp] theorem State.latch_pc (s : State) (f : FaultRecord) : (s.latch f).pc = s.pc := rfl
@[simp] theorem State.latch_dt (s : State) (f : FaultRecord) : (s.latch f).dt = s.dt := rfl
@[simp] theorem State.latch_st (s : State) (f : FaultRecord) : (s.latch f).st = s.st := rfl
@[simp] theorem State.latch_stack (s : State) (f : FaultRecord) : (s.latch f).stack = s.stack := rfl
@[simp] theorem State.latch_mem (s : State) (f : FaultRecord) : (s.latch f).mem = s.mem := rfl
@[simp] theorem State.latch_display (s : State) (f : FaultRecord) : (s.latch f).display = s.display := rfl
@[simp] theorem State.latch_fault (s : State) (f : FaultRecord) : (s.latch f).fault = some f := rfl
@[simp] theorem State.latch_params (s : State) (f : FaultRecord) : (s.latch f).params = s.params := rfl
@[simp] theorem State.latch_input (s : State) (f : FaultRecord) : (s.latch f).input = s.input := rfl
@[simp] theorem State.latch_pending (s : State) (f : FaultRecord) : (s.latch f).pending = s.pending := rfl
@[simp] theorem State.latch_drawn (s : State) (f : FaultRecord) : (s.latch f).drawn = s.drawn := rfl
@[simp] theorem State.latch_flush (s : State) (f : FaultRecord) : (s.latch f).flush = s.flush := rfl

/-! ### advance -/

@[simp] theorem State.advance_v (s : State) : s.advance.v = s.v := rfl
@[simp] theorem State.advance_i (s : State) : s.advance.i = s.i := rfl
@[simp] theorem State.advance_pc (s : State) : s.advance.pc = s.pc + 2 := rfl
@[simp] theorem State.advance_dt (s : State) : s.advance.dt = s.dt := rfl
@[simp] theorem State.advance_st (s : State) : s.advance.st = s.st := rfl
@[simp] theorem State.advance_stack (s : State) : s.advance.stack = s.stack := rfl
@[simp] theorem State.advance_mem (s : State) : s.advance.mem = s.mem := rfl
@[simp] theorem State.advance_display (s : State) : s.advance.display = s.display := rfl
@[simp] theorem State.advance_fault (s : State) : s.advance.fault = s.fault := rfl
@[simp] theorem State.advance_params (s : State) : s.advance.params = s.params := rfl
@[simp] theorem State.advance_input (s : State) : s.advance.input = s.input := rfl
@[simp] theorem State.advance_pending (s : State) : s.advance.pending = s.pending := rfl
@[simp] theorem State.advance_drawn (s : State) : s.advance.drawn = s.drawn := rfl
@[simp] theorem State.advance_flush (s : State) : s.advance.flush = s.flush := rfl

/-! ### retreat -/

@[simp] theorem State.retreat_v (s : State) : s.retreat.v = s.v := rfl
@[simp] theorem State.retreat_i (s : State) : s.retreat.i = s.i := rfl
@[simp] theorem State.retreat_pc (s : State) : s.retreat.pc = s.pc - 2 := rfl
@[simp] theorem State.retreat_dt (s : State) : s.retreat.dt = s.dt := rfl
@[simp] theorem State.retreat_st (s : State) : s.retreat.st = s.st := rfl
@[simp] theorem State.retreat_stack (s : State) : s.retreat.stack = s.stack := rfl
@[simp] theorem State.retreat_mem (s : State) : s.retreat.mem = s.mem := rfl
@[simp] theorem State.retreat_display (s : State) : s.retreat.display = s.display := rfl
@[simp] theorem State.retreat_fault (s : State) : s.retreat.fault = s.fault := rfl
@[simp] theorem State.retreat_params (s : State) : s.retreat.params = s.params := rfl
@[simp] theorem State.retreat_input (s : State) : s.retreat.input = s.input := rfl
@[simp] theorem State.retreat_pending (s : State) : s.retreat.pending = s.pending := rfl
@[simp] theorem State.retreat_drawn (s : State) : s.retreat.drawn = s.drawn := rfl
@[simp] theorem State.retreat_flush (s : State) : s.retreat.flush = s.flush := rfl

/-! ### skipIf -/

@[simp] theorem State.skipIf_v (s : State) (c : Bool) : (s.skipIf c).v = s.v := by cases c <;> rfl
@[simp] theorem State.skipIf_i (s : State) (c : Bool) : (s.skipIf c).i = s.i := by cases c <;> rfl
@[simp] theorem State.skipIf_pc (s : State) (c : Bool) : (s.skipIf c).pc = if c then s.pc + 2 else s.pc := by
  cases c <;> rfl
@[simp] theorem State.skipIf_dt (s : State) (c : Bool) : (s.skipIf c).dt = s.dt := by cases c <;> rfl
@[simp] theorem State.skipIf_st (s : State) (c : Bool) : (s.skipIf c).st = s.st := by cases c <;> rfl
@[simp] theorem State.skipIf_stack (s : State) (c : Bool) : (s.skipIf c).stack = s.stack := by cases c <;> rfl
@[simp] theorem State.skipIf_mem (s : State) (c : Bool) : (s.skipIf c).mem = s.mem := by cases c <;> rfl
@[simp] theorem State.skipIf_display (s : State) (c : Bool) : (s.skipIf c).display = s.display := by cases c <;> rfl
@[simp] theorem State.skipIf_fault (s : State) (c : Bool) : (s.skipIf c).fault = s.fault := by cases c <;> rfl
@[simp] theorem State.skipIf_params (s : State) (c : Bool) : (s.skipIf c).params = s.params := by cases c <;> rfl
@[simp] theorem State.skipIf_input (s : State) (c : Bool) : (s.skipIf c).input = s.input := by cases c <;> rfl
@[simp] theorem State.skipIf_pending (s : State) (c : Bool) : (s.skipIf c).pending = s.pending := by cases c <;> rfl
@[simp] theorem State.skipIf_drawn (s : State) (c : Bool) : (s.skipIf c).drawn = s.drawn := by cases c <;> rfl
@[simp] theorem State.skipIf_flush (s : State) (c : Bool) : (s.skipIf c).flush = s.flush := by cases c <;> rfl

/-! ### The sequencer's phases -/

@[simp] theorem sampleInput_v (s : State) : (sampleInput s).v = s.v := by
  unfold sampleInput; split <;> rfl
@[simp] theorem sampleInput_i (s : State) : (sampleInput s).i = s.i := by
  unfold sampleInput; split <;> rfl
@[simp] theorem sampleInput_pc (s : State) : (sampleInput s).pc = s.pc := by
  unfold sampleInput; split <;> rfl
@[simp] theorem sampleInput_dt (s : State) : (sampleInput s).dt = s.dt := by
  unfold sampleInput; split <;> rfl
@[simp] theorem sampleInput_st (s : State) : (sampleInput s).st = s.st := by
  unfold sampleInput; split <;> rfl
@[simp] theorem sampleInput_stack (s : State) : (sampleInput s).stack = s.stack := by
  unfold sampleInput; split <;> rfl
@[simp] theorem sampleInput_mem (s : State) : (sampleInput s).mem = s.mem := by
  unfold sampleInput; split <;> rfl
@[simp] theorem sampleInput_display (s : State) : (sampleInput s).display = s.display := by
  unfold sampleInput; split <;> rfl
@[simp] theorem sampleInput_fault (s : State) : (sampleInput s).fault = s.fault := by
  unfold sampleInput; split <;> rfl
@[simp] theorem sampleInput_params (s : State) : (sampleInput s).params = s.params := by
  unfold sampleInput; split <;> rfl
@[simp] theorem sampleInput_flush (s : State) : (sampleInput s).flush = s.flush := by
  unfold sampleInput; split <;> rfl
@[simp] theorem tickUpdate_v (s : State) : (tickUpdate s).v = s.v := rfl
@[simp] theorem tickUpdate_i (s : State) : (tickUpdate s).i = s.i := rfl
@[simp] theorem tickUpdate_pc (s : State) : (tickUpdate s).pc = s.pc := rfl
@[simp] theorem tickUpdate_dt (s : State) : (tickUpdate s).dt = tickDown s.dt s.input.ticks := rfl
@[simp] theorem tickUpdate_st (s : State) : (tickUpdate s).st = tickDown s.st s.input.ticks := rfl
@[simp] theorem tickUpdate_stack (s : State) : (tickUpdate s).stack = s.stack := rfl
@[simp] theorem tickUpdate_mem (s : State) : (tickUpdate s).mem = s.mem := rfl
@[simp] theorem tickUpdate_display (s : State) : (tickUpdate s).display = s.display := rfl
@[simp] theorem tickUpdate_fault (s : State) : (tickUpdate s).fault = s.fault := rfl
@[simp] theorem tickUpdate_params (s : State) : (tickUpdate s).params = s.params := rfl
@[simp] theorem tickUpdate_input (s : State) : (tickUpdate s).input = s.input := rfl
@[simp] theorem tickUpdate_pending (s : State) : (tickUpdate s).pending = s.pending := rfl
@[simp] theorem tickUpdate_drawn (s : State) : (tickUpdate s).drawn = s.drawn := rfl
@[simp] theorem tickUpdate_flush (s : State) : (tickUpdate s).flush = s.flush := rfl
@[simp] theorem beginStep_v (s : State) : (beginStep s).v = s.v := by simp [beginStep]
@[simp] theorem beginStep_i (s : State) : (beginStep s).i = s.i := by simp [beginStep]
@[simp] theorem beginStep_pc (s : State) : (beginStep s).pc = s.pc := by simp [beginStep]
@[simp] theorem beginStep_dt (s : State) : (beginStep s).dt = tickDown s.dt (beginStep s).input.ticks := by simp [beginStep]
@[simp] theorem beginStep_st (s : State) : (beginStep s).st = tickDown s.st (beginStep s).input.ticks := by simp [beginStep]
@[simp] theorem beginStep_stack (s : State) : (beginStep s).stack = s.stack := by simp [beginStep]
@[simp] theorem beginStep_mem (s : State) : (beginStep s).mem = s.mem := by simp [beginStep]
@[simp] theorem beginStep_display (s : State) : (beginStep s).display = s.display := by simp [beginStep]
@[simp] theorem beginStep_fault (s : State) : (beginStep s).fault = s.fault := by simp [beginStep]
@[simp] theorem beginStep_params (s : State) : (beginStep s).params = s.params := by simp [beginStep]
@[simp] theorem beginStep_flush (s : State) : (beginStep s).flush = false := by simp [beginStep]

/-! ### Registers and bytes through the accessors -/

@[simp] theorem State.getV_setV_same (s : State) (r : Reg) (b : Byte) : (s.setV r b).getV r = b := by
  simp [State.getV, State.setV]

theorem State.getV_setV (s : State) (r q : Reg) (b : Byte) :
    (s.setV r b).getV q = if r = q then b else s.getV q := by
  simp [State.getV, State.setV, Vector.getElem_set, Fin.ext_iff]

@[simp] theorem State.getV_setV_other (s : State) {r q : Reg} (b : Byte) (h : r ≠ q) :
    (s.setV r b).getV q = s.getV q := by
  simp [State.getV_setV, h]

/-- States with the same register file give the same registers. -/
theorem State.getV_congr {s t : State} (h : t.v = s.v) (r : Reg) : t.getV r = s.getV r := by
  simp [State.getV, h]

/-- States with the same memory read the same bytes. -/
theorem State.readByte_congr {s t : State} (h : t.mem = s.mem) (a : Nat) : t.readByte a = s.readByte a := by
  simp [State.readByte, h]

@[simp] theorem State.setV_readByte (s : State) (r : Reg) (b : Byte) (a : Nat) : (s.setV r b).readByte a = s.readByte a := rfl
@[simp] theorem State.setI_getV (s : State) (w : Word) (r : Reg) : (s.setI w).getV r = s.getV r := rfl
@[simp] theorem State.setI_readByte (s : State) (w : Word) (a : Nat) : (s.setI w).readByte a = s.readByte a := rfl
@[simp] theorem State.setPc_getV (s : State) (w : Word) (r : Reg) : (s.setPc w).getV r = s.getV r := rfl
@[simp] theorem State.setPc_readByte (s : State) (w : Word) (a : Nat) : (s.setPc w).readByte a = s.readByte a := rfl
@[simp] theorem State.setDt_getV (s : State) (b : Byte) (r : Reg) : (s.setDt b).getV r = s.getV r := rfl
@[simp] theorem State.setDt_readByte (s : State) (b : Byte) (a : Nat) : (s.setDt b).readByte a = s.readByte a := rfl
@[simp] theorem State.setSt_getV (s : State) (b : Byte) (r : Reg) : (s.setSt b).getV r = s.getV r := rfl
@[simp] theorem State.setSt_readByte (s : State) (b : Byte) (a : Nat) : (s.setSt b).readByte a = s.readByte a := rfl
@[simp] theorem State.setStack_getV (s : State) (l : List Word) (r : Reg) : (s.setStack l).getV r = s.getV r := rfl
@[simp] theorem State.setStack_readByte (s : State) (l : List Word) (a : Nat) : (s.setStack l).readByte a = s.readByte a := rfl
@[simp] theorem State.setMem_getV (s : State) (m : Memory) (r : Reg) : (s.setMem m).getV r = s.getV r := rfl
@[simp] theorem State.setDisplay_getV (s : State) (d : Vector Row 32) (r : Reg) : (s.setDisplay d).getV r = s.getV r := rfl
@[simp] theorem State.setDisplay_readByte (s : State) (d : Vector Row 32) (a : Nat) : (s.setDisplay d).readByte a = s.readByte a := rfl
@[simp] theorem State.setFlush_getV (s : State) (b : Bool) (r : Reg) : (s.setFlush b).getV r = s.getV r := rfl
@[simp] theorem State.setFlush_readByte (s : State) (b : Bool) (a : Nat) : (s.setFlush b).readByte a = s.readByte a := rfl
@[simp] theorem State.latch_getV (s : State) (f : FaultRecord) (r : Reg) : (s.latch f).getV r = s.getV r := rfl
@[simp] theorem State.latch_readByte (s : State) (f : FaultRecord) (a : Nat) : (s.latch f).readByte a = s.readByte a := rfl
@[simp] theorem State.advance_getV (s : State) (r : Reg) : s.advance.getV r = s.getV r := rfl
@[simp] theorem State.advance_readByte (s : State) (a : Nat) : s.advance.readByte a = s.readByte a := rfl
@[simp] theorem State.retreat_getV (s : State) (r : Reg) : s.retreat.getV r = s.getV r := rfl
@[simp] theorem State.retreat_readByte (s : State) (a : Nat) : s.retreat.readByte a = s.readByte a := rfl
@[simp] theorem State.skipIf_getV (s : State) (c : Bool) (r : Reg) : (s.skipIf c).getV r = s.getV r := by cases c <;> rfl
@[simp] theorem State.skipIf_readByte (s : State) (c : Bool) (a : Nat) : (s.skipIf c).readByte a = s.readByte a := by cases c <;> rfl
@[simp] theorem State.setMem_readByte (s : State) (m : Memory) (a : Nat) : (s.setMem m).readByte a = m.read a := rfl
@[simp] theorem beginStep_getV (s : State) (r : Reg) : (beginStep s).getV r = s.getV r :=
  State.getV_congr (beginStep_v s) r
@[simp] theorem beginStep_readByte (s : State) (a : Nat) : (beginStep s).readByte a = s.readByte a :=
  State.readByte_congr (beginStep_mem s) a

/-- A register file is its sixteen registers. -/
theorem State.v_ext {s t : State} (h : ∀ r, t.getV r = s.getV r) : t.v = s.v :=
  Vector.ext fun k hk => h ⟨k, hk⟩

/-- Storing what a register holds changes nothing. -/
@[simp] theorem State.setV_getV (s : State) (r : Reg) : s.setV r (s.getV r) = s := by
  simp [State.setV, State.getV]

end Sys2Proof.Machine
end

