-- ==== Sys2Proof/Laws/Ops.lean ====
section
/-! SUPPORT. One lemma per shared operation that says everything it can do; proofs cite these and do not unfold the
operations. -/

namespace Sys2Proof.Machine

/-! ## The call stack (R31) -/

/-- `Push`: one entry more on top, or no room. -/
theorem State.push_cases (s : State) (w : Word) :
    (s.sp < s.params.stackDepth ∧ s.push w = some (s.setStack (s.stack ++ [w]))) ∨
      (s.params.stackDepth ≤ s.sp ∧ s.push w = none) := by
  unfold State.push
  by_cases h : s.sp < s.params.stackDepth
  · exact .inl ⟨h, if_pos h⟩
  · exact .inr ⟨by omega, if_neg h⟩

/-- `Pop` on a stack with a top entry. -/
@[simp] theorem State.pop_top {s : State} {l : List Word} {w : Word} (h : s.stack = l ++ [w]) :
    s.pop = some (w, s.setStack l) := by
  simp [State.pop, h]

/-- `Pop` on an empty stack. -/
@[simp] theorem State.pop_empty {s : State} (h : s.stack = []) : s.pop = none := by
  simp [State.pop, h]

/-- `Pop`: the stack is empty, or its top entry comes off. -/
theorem State.pop_cases (s : State) :
    (s.stack = [] ∧ s.pop = none) ∨ ∃ l w, s.stack = l ++ [w] ∧ s.pop = some (w, s.setStack l) := by
  rcases List.eq_nil_or_concat s.stack with h | ⟨l, w, h⟩
  · exact .inl ⟨h, State.pop_empty h⟩
  · rw [List.concat_eq_append] at h
    exact .inr ⟨l, w, h, State.pop_top h⟩

/-! ## Register runs (R143, R144) -/

/-- A run of register writes: register r of the run takes its byte, every other register keeps its value. -/
theorem State.setVFrom_getV (s : State) (k : Nat) (bs : List Byte) (r : Reg) :
    (s.setVFrom k bs).getV r = if h : k ≤ r.val ∧ r.val - k < bs.length then bs[r.val - k] else s.getV r := by
  induction bs generalizing s k with
  | nil => simp [State.setVFrom]
  | cons b bs ih =>
    rw [State.setVFrom, ih]
    by_cases h1 : k + 1 ≤ r.val
    · have hk : k < 16 := by omega
      have hne : (⟨k, hk⟩ : Reg) ≠ r := fun h => by rw [← h] at h1; simp at h1
      have hsub : r.val - k = (r.val - (k + 1)) + 1 := by omega
      by_cases h2 : r.val - (k + 1) < bs.length
      · rw [dif_pos ⟨h1, h2⟩, dif_pos ⟨by omega, by simp; omega⟩]
        simp [hsub]
      · rw [dif_neg (fun h : k + 1 ≤ r.val ∧ _ => h2 h.2),
          dif_neg (fun h : k ≤ r.val ∧ r.val - k < (b :: bs).length => h2 (by have := h.2; simp at this; omega)), dif_pos hk,
          State.getV_setV_other s b hne]
    · rw [dif_neg fun h => h1 h.1]
      by_cases h3 : k = r.val
      · subst h3
        simp
      · rw [dif_neg (show ¬ (k ≤ r.val ∧ r.val - k < (b :: bs).length) from fun h => by omega)]
        by_cases hk : k < 16
        · rw [dif_pos hk, State.getV_setV_other s b fun h => h3 (by rw [← h])]
        · rw [dif_neg hk]

/-- A run of register writes changes the register file only. -/
theorem State.setVFrom_frame (s : State) (k : Nat) (bs : List Byte) :
    s.setVFrom k bs = { s with v := (s.setVFrom k bs).v } := by
  induction bs generalizing s k with
  | nil => rfl
  | cons b bs ih =>
    rw [State.setVFrom, ih]
    by_cases hk : k < 16 <;> simp [hk, State.setV]

/-- The k-th register of a register list. -/
theorem firstRegs_length (s : State) (x : Reg) : (firstRegs s x).length = x.val + 1 := by
  simp [firstRegs]

/-- The k-th byte stored by LoadMemoryRegisters is V[k]. -/
theorem firstRegs_getElem (s : State) (x : Reg) (k : Nat) (h : k < (firstRegs s x).length) :
    (firstRegs s x)[k] = s.getV ⟨k, by rw [firstRegs_length] at h; omega⟩ := by
  simp [firstRegs, State.getV]

/-! ## The store at I (R53) -/

/-- Everything `storeAtI` can do: the bytes are stored, or nothing is and the access faults. -/
theorem storeAtI_cases (bs : List Byte) (s : State) :
    ((bs = [] ∨ s.i.toNat + bs.length ≤ 4096) ∧ storeAtI bs s = .next (s.setMem (s.mem.writeAll s.i.toNat bs))) ∨
      (bs ≠ [] ∧ 4096 < s.i.toNat + bs.length ∧
        storeAtI bs s = raise (.addressOutOfRange s.i.toNat bs.length) s) := by
  unfold storeAtI
  rcases memWrite_cases s.mem s.i.toNat bs with ⟨h, he⟩ | ⟨h1, h2, he⟩
  · exact .inl ⟨h, by rw [he]⟩
  · exact .inr ⟨h1, h2, by rw [he]⟩

/-! ## The compositor (R152 to R157) -/

/-- `drawRow` on each row: the row drawn is XORed, every other row keeps its word. -/
theorem drawRow_getElem (d : Vector Row 32) (r : Nat) (w : Row) (q : Fin 32) :
    (drawRow d r w).1[q] = if q.val = r then d[q] ^^^ w else d[q] := by
  unfold drawRow
  by_cases h : r < 32
  · rw [dif_pos h]
    by_cases hq : q.val = r
    · subst hq; simp
    · simp [hq, Ne.symm hq]
  · rw [dif_neg h, if_neg (by omega)]

/-- `drawRow` collides exactly when the row exists and shares a set pixel with what is drawn. -/
theorem drawRow_collides (d : Vector Row 32) (r : Nat) (w : Row) :
    (drawRow d r w).2 = true ↔ ∃ h : r < 32, d[r] &&& w ≠ 0 := by
  unfold drawRow
  by_cases h : r < 32 <;> simp [h]

/-- The word the rows `bs` from row `r` on XOR into row `q`. -/
theorem drawRows_getElem (x0 : Nat) (d : Vector Row 32) (r : Nat) (bs : List Byte) (q : Fin 32) :
    (drawRows x0 d r bs).1[q] =
      if h : r ≤ q.val ∧ q.val - r < bs.length then d[q] ^^^ spriteRow bs[q.val - r] x0 else d[q] := by
  induction bs generalizing d r with
  | nil => simp [drawRows]
  | cons b bs ih =>
    simp only [drawRows, ih, drawRow_getElem]
    by_cases h1 : r + 1 ≤ q.val
    · have hne : q.val ≠ r := by omega
      have hsub : q.val - r = (q.val - (r + 1)) + 1 := by omega
      by_cases h2 : q.val - (r + 1) < bs.length
      · rw [dif_pos ⟨h1, h2⟩, dif_pos ⟨by omega, by simp; omega⟩, if_neg hne]
        simp [hsub]
      · rw [dif_neg fun h => h2 h.2, dif_neg fun h => h2 (by have := h.2; simp at this; omega), if_neg hne]
    · rw [dif_neg fun h => h1 h.1]
      by_cases h3 : q.val = r
      · subst h3; simp
      · rw [dif_neg (show ¬ (r ≤ q.val ∧ q.val - r < (b :: bs).length) from fun h => by omega), if_neg h3]

/-- The rows collide exactly when one of them does, on the display as it was before. -/
theorem drawRows_collides (x0 : Nat) (d : Vector Row 32) (r : Nat) (bs : List Byte) :
    (drawRows x0 d r bs).2 = true ↔
      ∃ (q : Fin 32) (h : r ≤ q.val ∧ q.val - r < bs.length), d[q] &&& spriteRow bs[q.val - r] x0 ≠ 0 := by
  induction bs generalizing d r with
  | nil => simp [drawRows]
  | cons b bs ih =>
    simp only [drawRows, Bool.or_eq_true, ih, drawRow_collides, drawRow_getElem]
    constructor
    · rintro (⟨h, hc⟩ | ⟨q, ⟨hr, hl⟩, hc⟩)
      · exact ⟨⟨r, h⟩, ⟨Nat.le_refl r, by simp⟩, by simpa using hc⟩
      · rw [if_neg (by omega)] at hc
        refine ⟨q, ⟨by omega, by simp; omega⟩, ?_⟩
        have hsub : q.val - r = (q.val - (r + 1)) + 1 := by omega
        simpa [hsub] using hc
    · rintro ⟨q, ⟨hr, hl⟩, hc⟩
      by_cases hq : q.val = r
      · subst hq
        exact .inl ⟨q.isLt, by simpa using hc⟩
      · refine .inr ⟨q, ⟨by omega, by simp at hl; omega⟩, ?_⟩
        rw [if_neg hq]
        have hsub : q.val - r = (q.val - (r + 1)) + 1 := by omega
        simpa [hsub] using hc

/-- A pixel of a sprite row (R154, R155): bit 7 - j of the byte lies in column x0 + j, and nothing else does. -/
theorem spriteRow_getLsbD (b : Byte) (x0 c : Nat) :
    (spriteRow b x0).getLsbD c = (decide (c < 64) && decide (x0 ≤ c) && decide (c < x0 + 8) && b.getLsbD (7 - (c - x0))) := by
  simp only [spriteRow, rev8, BitVec.getLsbD_shiftLeft, BitVec.getLsbD_setWidth, BitVec.getLsbD_reverse,
    BitVec.getMsbD]
  by_cases h1 : c < 64
  · by_cases h2 : x0 ≤ c
    · have hn : ¬ c < x0 := by omega
      have h64 : c - x0 < 64 := by omega
      by_cases h3 : c < x0 + 8
      · simp [h1, h2, h3, hn, h64, show c - x0 < 8 by omega]
      · simp [h3, show ¬ c - x0 < 8 by omega]
    · simp [h2, show c < x0 by omega]
  · simp [h1]

/-- Past the bottom edge (R156, R215). -/
theorem passesBottom_iff (y0 n : Nat) : passesBottom y0 n = true ↔ 1 ≤ n ∧ 32 < y0 + n := by
  simp only [passesBottom, Bool.and_eq_true, decide_eq_true_eq]
  omega

/-- The start column (R153). -/
theorem originCol_eq (px : Byte) : originCol px = px.toNat % 64 := rfl

/-- The start row (R153). -/
theorem originRow_eq (py : Byte) : originRow py = py.toNat % 32 := rfl

/-! ## The inputs of a step (R38, log entry 1) -/

/-- A step with supplied inputs takes the oldest. -/
theorem sampleInput_supplied {s : State} {now : StepInput} {rest : List StepInput} (h : s.pending = now :: rest) :
    sampleInput s = { s with input := now, pending := rest } := by
  simp [sampleInput, h]

/-- A step with no supplied inputs takes free ones. -/
theorem sampleInput_free {s : State} (h : s.pending = []) :
    sampleInput s = { s with input := Config.freeInput s.drawn, drawn := s.drawn + 1 } := by
  simp [sampleInput, h]

/-- The tick update saturates at 0 (R101). -/
@[simp] theorem tickDown_toNat (timer : Byte) (t : Nat) : (tickDown timer t).toNat = timer.toNat - t := by
  unfold tickDown
  split
  · simp; omega
  · simp only [BitVec.toNat_ofNat]
    have := timer.isLt
    omega

/-! ## Fetching (R102) -/

/-- Everything the fetch can answer. -/
theorem fetchOpcode_cases (s : State) :
    (s.pc.toNat ≤ 4094 ∧
        fetchOpcode s = some (joinBytes (s.readByte s.pc.toNat) (s.readByte (s.pc.toNat + 1)))) ∨
      (4094 < s.pc.toNat ∧ fetchOpcode s = none) := by
  unfold fetchOpcode
  by_cases h : s.pc.toNat + 1 ≤ 4095
  · exact .inl ⟨by omega, if_pos h⟩
  · exact .inr ⟨by omega, if_neg h⟩

/-- What a step does before the fetch changes nothing the fetch reads. -/
@[simp] theorem fetchOpcode_beginStep (s : State) : fetchOpcode (beginStep s) = fetchOpcode s := by
  simp [fetchOpcode]

/-- An opcode stored at PC is the next one fetched. -/
theorem fetchOpcode_storeOpcodeAtPc {s : State} (op : Word) (hpc : s.pc.toNat ≤ 4094) (hm : s.mem.wf) :
    fetchOpcode (storeOpcodeAtPc op s) = some op := by
  have hr : s.pc.toNat + (wordBytes op).length ≤ 4096 := by simp [wordBytes]; omega
  have hstore : storeOpcodeAtPc op s = s.setMem (s.mem.writeAll s.pc.toNat (wordBytes op)) := by
    rcases memWrite_cases s.mem s.pc.toNat (wordBytes op) with ⟨-, he⟩ | ⟨-, h2, -⟩
    · simp [storeOpcodeAtPc, he]
    · omega
  have h0 := Memory.read_writeAll_inside (a := s.pc.toNat) (k := 0) (bs := wordBytes op) hm.1 (by simp [wordBytes])
  have h1 := Memory.read_writeAll_inside (a := s.pc.toNat) (k := 1) (bs := wordBytes op) hm.1 (by simp [wordBytes])
  rw [hstore]
  rcases fetchOpcode_cases (s.setMem (s.mem.writeAll s.pc.toNat (wordBytes op))) with ⟨-, he⟩ | ⟨h, -⟩
  · rw [he]
    simp only [State.setMem_pc, State.setMem_readByte]
    rw [Nat.add_zero] at h0
    rw [h0, h1]
    simp only [wordBytes, List.getElem_cons_zero, List.getElem_cons_succ]
    exact congrArg some (joinBytes_high_low op)
  · simp at h; omega

end Sys2Proof.Machine
end

