-- ==== Sys2Proof/Laws/Exec.lean ====
section
/-! SUPPORT. What an instruction, and a step, can answer at all; every invariant starts from these. -/

namespace Sys2Proof.Machine

/-- A result that is a next state with the latch, the parameters and the supplied inputs untouched, or the shared
`raise`, on the state as it was, of one of the kinds an execute rule raises (R105, R218). -/
inductive Answers (s : State) : Result → Prop where
  | ok (t : State) (fault : t.fault = s.fault) (params : t.params = s.params) (input : t.input = s.input)
      (pending : t.pending = s.pending) (drawn : t.drawn = s.drawn) : Answers s (.next t)
  | range (addr len : Nat) : Answers s (raise (.addressOutOfRange addr len) s)
  | full : Answers s (raise (.stackOverflow s.pc) s)
  | bottom (y0 n : Nat) (h : s.params.drawBottom = .fault) : Answers s (raise (.displayRowOutOfRange y0 n) s)

/-- The store at I answers so. -/
theorem storeAtI_answers (bs : List Byte) (s : State) : Answers s (storeAtI bs s) := by
  rcases storeAtI_cases bs s with ⟨-, h⟩ | ⟨-, -, h⟩ <;> rw [h]
  · exact .ok _ rfl rfl rfl rfl rfl
  · exact .range _ _

/-- A skip answers a next state. -/
theorem skipIf_answers (s : State) (c : Bool) : Answers s (.next (s.skipIf c)) :=
  .ok _ (by simp) (by simp) (by simp) (by simp) (by simp)

/-- Every instruction answers so, on every state. -/
theorem exec_answers (i : Instr) (s : State) : Answers s (exec i s) := by
  cases i with
  | subroutineReturn =>
    rcases s.pop_cases with ⟨-, h⟩ | ⟨l, w, -, h⟩ <;>
      (simp only [exec, execSubroutineReturn, h]; exact .ok _ rfl rfl rfl rfl rfl)
  | subroutineCall addr =>
    rcases s.push_cases s.pc with ⟨-, h⟩ | ⟨-, h⟩ <;> simp only [exec, execSubroutineCall, h]
    · exact .ok _ rfl rfl rfl rfl rfl
    · exact .full
  | draw x y n =>
    simp only [exec, execDraw]
    rcases memRead_cases s.mem s.i.toNat n.val with ⟨-, h⟩ | ⟨-, -, h⟩ <;> rw [h]
    · simp only
      split
      · next hb => exact .bottom _ _ hb.1
      · exact .ok _ rfl rfl rfl rfl rfl
    · exact .range _ _
  | loadRegistersMemory x =>
    simp only [exec, execLoadRegistersMemory]
    rcases memRead_cases s.mem s.i.toNat (x.val + 1) with ⟨-, h⟩ | ⟨-, -, h⟩ <;> rw [h]
    · simp only
      rw [State.setVFrom_frame]
      exact .ok _ rfl rfl rfl rfl rfl
    · exact .range _ _
  | waitKey x =>
    simp only [exec, execWaitKey]
    split <;> exact .ok _ rfl rfl rfl rfl rfl
  | storeBcd x => exact storeAtI_answers _ s
  | loadMemoryRegisters x => exact storeAtI_answers _ s
  | skipIfEqualImm x kk => exact skipIf_answers s _
  | skipIfNotEqualImm x kk => exact skipIf_answers s _
  | skipIfEqualReg x y => exact skipIf_answers s _
  | skipIfNotEqualReg x y => exact skipIf_answers s _
  | skipIfKeyPressed x => exact skipIf_answers s _
  | skipIfKeyNotPressed x => exact skipIf_answers s _
  | clearScreen => exact .ok _ rfl rfl rfl rfl rfl
  | jump addr => exact .ok _ rfl rfl rfl rfl rfl
  | loadRegImm x kk => exact .ok _ rfl rfl rfl rfl rfl
  | addImm x kk => exact .ok _ rfl rfl rfl rfl rfl
  | loadRegReg x y => exact .ok _ rfl rfl rfl rfl rfl
  | orReg x y => exact .ok _ rfl rfl rfl rfl rfl
  | andReg x y => exact .ok _ rfl rfl rfl rfl rfl
  | xorReg x y => exact .ok _ rfl rfl rfl rfl rfl
  | addReg x y => exact .ok _ rfl rfl rfl rfl rfl
  | subtractReg x y => exact .ok _ rfl rfl rfl rfl rfl
  | shiftRight x y => exact .ok _ rfl rfl rfl rfl rfl
  | subtractRegReverse x y => exact .ok _ rfl rfl rfl rfl rfl
  | shiftLeft x y => exact .ok _ rfl rfl rfl rfl rfl
  | loadAddress addr => exact .ok _ rfl rfl rfl rfl rfl
  | jumpOffset addr => exact .ok _ rfl rfl rfl rfl rfl
  | random x kk => exact .ok _ rfl rfl rfl rfl rfl
  | loadRegDelay x => exact .ok _ rfl rfl rfl rfl rfl
  | loadDelayReg x => exact .ok _ rfl rfl rfl rfl rfl
  | loadSoundReg x => exact .ok _ rfl rfl rfl rfl rfl
  | addAddress x => exact .ok _ rfl rfl rfl rfl rfl
  | loadDigitSprite x => exact .ok _ rfl rfl rfl rfl rfl

/-- Everything a step can do (R100): it is refused by the latch, its fetch or its decode faults, or it executes the decoded
instruction. -/
inductive StepDoes (s : State) : Result → Prop where
  | latched (r : FaultRecord) (h : s.fault = some r) : StepDoes s (.refused (.faultLatched r))
  | outOfRange (h : s.fault = none) (hpc : 4094 < s.pc.toNat) :
      StepDoes s (raise (.addressOutOfRange s.pc.toNat 2) (beginStep s))
  | illegal (op : Word) (h : s.fault = none) (hpc : s.pc.toNat ≤ 4094) (hf : fetchOpcode s = some op)
      (hd : decode op = .failure op) : StepDoes s (raise (.invalidInstruction op s.pc) (beginStep s).advance)
  | executes (op : Word) (i : Instr) (h : s.fault = none) (hpc : s.pc.toNat ≤ 4094) (hf : fetchOpcode s = some op)
      (hd : decode op = .instr i) : StepDoes s (exec i (beginStep s).advance)

/-- A step does one of these. -/
theorem step_does (s : State) : StepDoes s (step s) := by
  unfold step
  cases hF : s.fault with
  | some r => exact .latched r hF
  | none =>
    simp only [fetchOpcode_beginStep, beginStep_pc]
    rcases fetchOpcode_cases s with ⟨hpc, hf⟩ | ⟨hpc, hf⟩ <;> rw [hf]
    · simp only
      split
      · next op hd =>
        rw [decode_failure hd]
        exact .illegal _ hF hpc hf (by rw [hd, decode_failure hd])
      · next i hd => exact .executes _ i hF hpc hf hd
    · exact .outOfRange hF hpc

end Sys2Proof.Machine
end

