-- ==== Sys2Proof/Laws/PerInstr.lean ====
section
/-! SUPPORT. For each instruction: its word selects its own row of the opcode table (R76), and its assembly line is well
formed (R85). -/

namespace Sys2Proof.Laws

/-! ## The fixed bits of each format -/

/-- The mask of the ADDR format keeps the family. -/
theorem formatAddr_mask (f : BitVec 4) (a : Addr12) : formatAddr f a &&& 0xF000#16 = formatAddr f 0 := by
  apply BitVec.eq_of_getLsbD_eq
  intro k hk
  rw [BitVec.getLsbD_and, formatAddr_bit, formatAddr_bit]
  interval_cases k <;> simp

/-- The mask of the XKK format keeps the family. -/
theorem formatXKK_mask (f : BitVec 4) (x : Reg) (kk : Byte) : formatXKK f x kk &&& 0xF000#16 = formatXKK f 0 0 := by
  apply BitVec.eq_of_getLsbD_eq
  intro k hk
  rw [BitVec.getLsbD_and, formatXKK_bit, formatXKK_bit]
  interval_cases k <;> simp [nibbleOf]

/-- The mask of the XSS format keeps the family and the second byte. -/
theorem formatXSS_mask (f : BitVec 4) (x : Reg) (kk : Byte) : formatXKK f x kk &&& 0xF0FF#16 = formatXKK f 0 kk := by
  apply BitVec.eq_of_getLsbD_eq
  intro k hk
  rw [BitVec.getLsbD_and, formatXKK_bit, formatXKK_bit]
  interval_cases k <;> simp [nibbleOf]

/-- The mask of the XYS format keeps the family and the low nibble. -/
theorem formatXYS_mask (f : BitVec 4) (x y : Reg) (n : BitVec 4) :
    formatXYN f x y n &&& 0xF00F#16 = formatXYN f 0 0 n := by
  apply BitVec.eq_of_getLsbD_eq
  intro k hk
  rw [BitVec.getLsbD_and, formatXYN_bit, formatXYN_bit]
  interval_cases k <;> simp [nibbleOf]

/-- The mask of the XYN format keeps the family. -/
theorem formatXYN_mask (f : BitVec 4) (x y : Reg) (n : BitVec 4) :
    formatXYN f x y n &&& 0xF000#16 = formatXYN f 0 0 0 := by
  apply BitVec.eq_of_getLsbD_eq
  intro k hk
  rw [BitVec.getLsbD_and, formatXYN_bit, formatXYN_bit]
  interval_cases k <;> simp [nibbleOf]

/-! ## Well-formed operands -/

@[simp] theorem reg_admits (r : Reg) : OperandKind.reg.admits (regOperand r) = true := by
  simp [OperandKind.admits, regOperand]

@[simp] theorem imm8_admits (b : Byte) : OperandKind.imm8.admits (.num b.toNat) = true := by
  simpa [OperandKind.admits] using b.isLt

@[simp] theorem addr12_admits (a : Addr12) : OperandKind.addr12.admits (.num a.toNat) = true := by
  simpa [OperandKind.admits] using a.isLt

@[simp] theorem count4_admits (n : Nibble) : OperandKind.count4.admits (.num n.val) = true := by
  simp [OperandKind.admits]

namespace SelectsItsRow

/-- The instruction's word selects the row of its own mnemonic, and its assembly line is well formed. -/
def Statement (i : Instr) : Prop :=
  (∃ row ∈ opcodeTable, row.mnemonic = i.mnemonic ∧ row.selectedBy (encode i) = true) ∧ (disassemble i).wf = true

/-- A row proves the statement when it stands in the table and the masked word is its pattern. -/
theorem of_row {i : Instr} (row : OpcodeRow) (hrow : row ∈ opcodeTable) (hname : row.mnemonic = i.mnemonic)
    (hbits : encode i &&& row.mask = row.pattern) (hwf : (disassemble i).wf = true) : Statement i :=
  ⟨⟨row, hrow, hname, by simp [OpcodeRow.selectedBy, hbits]⟩, hwf⟩

theorem clearScreen : Statement (.clearScreen) :=
  of_row ⟨.clearScreen, 0x00E0#16, 0xFFFF#16⟩ (by decide) rfl (by decide)
    (by
      simp [disassemble, AsmLine.wf, Instr.mnemonic, Mnemonic.forms, Instr.operands, formAdmits])

theorem subroutineReturn : Statement (.subroutineReturn) :=
  of_row ⟨.subroutineReturn, 0x00EE#16, 0xFFFF#16⟩ (by decide) rfl (by decide)
    (by
      simp [disassemble, AsmLine.wf, Instr.mnemonic, Mnemonic.forms, Instr.operands, formAdmits])

theorem jump (addr : Addr12) : Statement (.jump addr) :=
  of_row ⟨.jump, 0x1000#16, 0xF000#16⟩ (by decide) rfl ((formatAddr_mask _ _).trans (by decide))
    (by
      simp [disassemble, AsmLine.wf, Instr.mnemonic, Mnemonic.forms, Instr.operands, formAdmits])

theorem subroutineCall (addr : Addr12) : Statement (.subroutineCall addr) :=
  of_row ⟨.subroutineCall, 0x2000#16, 0xF000#16⟩ (by decide) rfl ((formatAddr_mask _ _).trans (by decide))
    (by
      simp [disassemble, AsmLine.wf, Instr.mnemonic, Mnemonic.forms, Instr.operands, formAdmits])

theorem skipIfEqualImm (x : Reg) (kk : Byte) : Statement (.skipIfEqualImm x kk) :=
  of_row ⟨.skipIfEqualImm, 0x3000#16, 0xF000#16⟩ (by decide) rfl ((formatXKK_mask _ _ _).trans (by decide))
    (by
      simp [disassemble, AsmLine.wf, Instr.mnemonic, Mnemonic.forms, Instr.operands, formAdmits])

theorem skipIfNotEqualImm (x : Reg) (kk : Byte) : Statement (.skipIfNotEqualImm x kk) :=
  of_row ⟨.skipIfNotEqualImm, 0x4000#16, 0xF000#16⟩ (by decide) rfl ((formatXKK_mask _ _ _).trans (by decide))
    (by
      simp [disassemble, AsmLine.wf, Instr.mnemonic, Mnemonic.forms, Instr.operands, formAdmits])

theorem skipIfEqualReg (x y : Reg) : Statement (.skipIfEqualReg x y) :=
  of_row ⟨.skipIfEqualReg, 0x5000#16, 0xF00F#16⟩ (by decide) rfl ((formatXYS_mask _ _ _ _).trans (by decide))
    (by
      simp [disassemble, AsmLine.wf, Instr.mnemonic, Mnemonic.forms, Instr.operands, formAdmits])

theorem loadRegImm (x : Reg) (kk : Byte) : Statement (.loadRegImm x kk) :=
  of_row ⟨.loadRegImm, 0x6000#16, 0xF000#16⟩ (by decide) rfl ((formatXKK_mask _ _ _).trans (by decide))
    (by
      simp [disassemble, AsmLine.wf, Instr.mnemonic, Mnemonic.forms, Instr.operands, formAdmits])

theorem addImm (x : Reg) (kk : Byte) : Statement (.addImm x kk) :=
  of_row ⟨.addImm, 0x7000#16, 0xF000#16⟩ (by decide) rfl ((formatXKK_mask _ _ _).trans (by decide))
    (by
      simp [disassemble, AsmLine.wf, Instr.mnemonic, Mnemonic.forms, Instr.operands, formAdmits])

theorem loadRegReg (x y : Reg) : Statement (.loadRegReg x y) :=
  of_row ⟨.loadRegReg, 0x8000#16, 0xF00F#16⟩ (by decide) rfl ((formatXYS_mask _ _ _ _).trans (by decide))
    (by
      simp [disassemble, AsmLine.wf, Instr.mnemonic, Mnemonic.forms, Instr.operands, formAdmits])

theorem orReg (x y : Reg) : Statement (.orReg x y) :=
  of_row ⟨.orReg, 0x8001#16, 0xF00F#16⟩ (by decide) rfl ((formatXYS_mask _ _ _ _).trans (by decide))
    (by
      simp [disassemble, AsmLine.wf, Instr.mnemonic, Mnemonic.forms, Instr.operands, formAdmits])

theorem andReg (x y : Reg) : Statement (.andReg x y) :=
  of_row ⟨.andReg, 0x8002#16, 0xF00F#16⟩ (by decide) rfl ((formatXYS_mask _ _ _ _).trans (by decide))
    (by
      simp [disassemble, AsmLine.wf, Instr.mnemonic, Mnemonic.forms, Instr.operands, formAdmits])

theorem xorReg (x y : Reg) : Statement (.xorReg x y) :=
  of_row ⟨.xorReg, 0x8003#16, 0xF00F#16⟩ (by decide) rfl ((formatXYS_mask _ _ _ _).trans (by decide))
    (by
      simp [disassemble, AsmLine.wf, Instr.mnemonic, Mnemonic.forms, Instr.operands, formAdmits])

theorem addReg (x y : Reg) : Statement (.addReg x y) :=
  of_row ⟨.addReg, 0x8004#16, 0xF00F#16⟩ (by decide) rfl ((formatXYS_mask _ _ _ _).trans (by decide))
    (by
      simp [disassemble, AsmLine.wf, Instr.mnemonic, Mnemonic.forms, Instr.operands, formAdmits])

theorem subtractReg (x y : Reg) : Statement (.subtractReg x y) :=
  of_row ⟨.subtractReg, 0x8005#16, 0xF00F#16⟩ (by decide) rfl ((formatXYS_mask _ _ _ _).trans (by decide))
    (by
      simp [disassemble, AsmLine.wf, Instr.mnemonic, Mnemonic.forms, Instr.operands, formAdmits])

theorem shiftRight (x y : Reg) : Statement (.shiftRight x y) :=
  of_row ⟨.shiftRight, 0x8006#16, 0xF00F#16⟩ (by decide) rfl ((formatXYS_mask _ _ _ _).trans (by decide))
    (by
      by_cases h : y = 0 <;>
        simp [disassemble, AsmLine.wf, Instr.mnemonic, Mnemonic.forms, Instr.operands, shiftOperands, h, formAdmits])

theorem subtractRegReverse (x y : Reg) : Statement (.subtractRegReverse x y) :=
  of_row ⟨.subtractRegReverse, 0x8007#16, 0xF00F#16⟩ (by decide) rfl ((formatXYS_mask _ _ _ _).trans (by decide))
    (by
      simp [disassemble, AsmLine.wf, Instr.mnemonic, Mnemonic.forms, Instr.operands, formAdmits])

theorem shiftLeft (x y : Reg) : Statement (.shiftLeft x y) :=
  of_row ⟨.shiftLeft, 0x800E#16, 0xF00F#16⟩ (by decide) rfl ((formatXYS_mask _ _ _ _).trans (by decide))
    (by
      by_cases h : y = 0 <;>
        simp [disassemble, AsmLine.wf, Instr.mnemonic, Mnemonic.forms, Instr.operands, shiftOperands, h, formAdmits])

theorem skipIfNotEqualReg (x y : Reg) : Statement (.skipIfNotEqualReg x y) :=
  of_row ⟨.skipIfNotEqualReg, 0x9000#16, 0xF00F#16⟩ (by decide) rfl ((formatXYS_mask _ _ _ _).trans (by decide))
    (by
      simp [disassemble, AsmLine.wf, Instr.mnemonic, Mnemonic.forms, Instr.operands, formAdmits])

theorem loadAddress (addr : Addr12) : Statement (.loadAddress addr) :=
  of_row ⟨.loadAddress, 0xA000#16, 0xF000#16⟩ (by decide) rfl ((formatAddr_mask _ _).trans (by decide))
    (by
      simp [disassemble, AsmLine.wf, Instr.mnemonic, Mnemonic.forms, Instr.operands, formAdmits])

theorem jumpOffset (addr : Addr12) : Statement (.jumpOffset addr) :=
  of_row ⟨.jumpOffset, 0xB000#16, 0xF000#16⟩ (by decide) rfl ((formatAddr_mask _ _).trans (by decide))
    (by
      simp [disassemble, AsmLine.wf, Instr.mnemonic, Mnemonic.forms, Instr.operands, formAdmits])

theorem random (x : Reg) (kk : Byte) : Statement (.random x kk) :=
  of_row ⟨.random, 0xC000#16, 0xF000#16⟩ (by decide) rfl ((formatXKK_mask _ _ _).trans (by decide))
    (by
      simp [disassemble, AsmLine.wf, Instr.mnemonic, Mnemonic.forms, Instr.operands, formAdmits])

theorem draw (x y : Reg) (n : Nibble) : Statement (.draw x y n) :=
  of_row ⟨.draw, 0xD000#16, 0xF000#16⟩ (by decide) rfl ((formatXYN_mask _ _ _ _).trans (by decide))
    (by
      simp [disassemble, AsmLine.wf, Instr.mnemonic, Mnemonic.forms, Instr.operands, formAdmits])

theorem skipIfKeyPressed (x : Reg) : Statement (.skipIfKeyPressed x) :=
  of_row ⟨.skipIfKeyPressed, 0xE09E#16, 0xF0FF#16⟩ (by decide) rfl ((formatXSS_mask _ _ _).trans (by decide))
    (by
      simp [disassemble, AsmLine.wf, Instr.mnemonic, Mnemonic.forms, Instr.operands, formAdmits])

theorem skipIfKeyNotPressed (x : Reg) : Statement (.skipIfKeyNotPressed x) :=
  of_row ⟨.skipIfKeyNotPressed, 0xE0A1#16, 0xF0FF#16⟩ (by decide) rfl ((formatXSS_mask _ _ _).trans (by decide))
    (by
      simp [disassemble, AsmLine.wf, Instr.mnemonic, Mnemonic.forms, Instr.operands, formAdmits])

theorem loadRegDelay (x : Reg) : Statement (.loadRegDelay x) :=
  of_row ⟨.loadRegDelay, 0xF007#16, 0xF0FF#16⟩ (by decide) rfl ((formatXSS_mask _ _ _).trans (by decide))
    (by
      simp [disassemble, AsmLine.wf, Instr.mnemonic, Mnemonic.forms, Instr.operands, formAdmits])

theorem waitKey (x : Reg) : Statement (.waitKey x) :=
  of_row ⟨.waitKey, 0xF00A#16, 0xF0FF#16⟩ (by decide) rfl ((formatXSS_mask _ _ _).trans (by decide))
    (by
      simp [disassemble, AsmLine.wf, Instr.mnemonic, Mnemonic.forms, Instr.operands, formAdmits])

theorem loadDelayReg (x : Reg) : Statement (.loadDelayReg x) :=
  of_row ⟨.loadDelayReg, 0xF015#16, 0xF0FF#16⟩ (by decide) rfl ((formatXSS_mask _ _ _).trans (by decide))
    (by
      simp [disassemble, AsmLine.wf, Instr.mnemonic, Mnemonic.forms, Instr.operands, formAdmits])

theorem loadSoundReg (x : Reg) : Statement (.loadSoundReg x) :=
  of_row ⟨.loadSoundReg, 0xF018#16, 0xF0FF#16⟩ (by decide) rfl ((formatXSS_mask _ _ _).trans (by decide))
    (by
      simp [disassemble, AsmLine.wf, Instr.mnemonic, Mnemonic.forms, Instr.operands, formAdmits])

theorem addAddress (x : Reg) : Statement (.addAddress x) :=
  of_row ⟨.addAddress, 0xF01E#16, 0xF0FF#16⟩ (by decide) rfl ((formatXSS_mask _ _ _).trans (by decide))
    (by
      simp [disassemble, AsmLine.wf, Instr.mnemonic, Mnemonic.forms, Instr.operands, formAdmits])

theorem loadDigitSprite (x : Reg) : Statement (.loadDigitSprite x) :=
  of_row ⟨.loadDigitSprite, 0xF029#16, 0xF0FF#16⟩ (by decide) rfl ((formatXSS_mask _ _ _).trans (by decide))
    (by
      simp [disassemble, AsmLine.wf, Instr.mnemonic, Mnemonic.forms, Instr.operands, formAdmits])

theorem storeBcd (x : Reg) : Statement (.storeBcd x) :=
  of_row ⟨.storeBcd, 0xF033#16, 0xF0FF#16⟩ (by decide) rfl ((formatXSS_mask _ _ _).trans (by decide))
    (by
      simp [disassemble, AsmLine.wf, Instr.mnemonic, Mnemonic.forms, Instr.operands, formAdmits])

theorem loadMemoryRegisters (x : Reg) : Statement (.loadMemoryRegisters x) :=
  of_row ⟨.loadMemoryRegisters, 0xF055#16, 0xF0FF#16⟩ (by decide) rfl ((formatXSS_mask _ _ _).trans (by decide))
    (by
      simp [disassemble, AsmLine.wf, Instr.mnemonic, Mnemonic.forms, Instr.operands, formAdmits])

theorem loadRegistersMemory (x : Reg) : Statement (.loadRegistersMemory x) :=
  of_row ⟨.loadRegistersMemory, 0xF065#16, 0xF0FF#16⟩ (by decide) rfl ((formatXSS_mask _ _ _).trans (by decide))
    (by
      simp [disassemble, AsmLine.wf, Instr.mnemonic, Mnemonic.forms, Instr.operands, formAdmits])

end SelectsItsRow

end Sys2Proof.Laws
end

