-- ==== Sys2Proof/Tests/Slice0.lean ====
section
/-! SUPPORT. Tests. Every expected value comes from spec/95_test_vectors.md (the vector is named at the test) or is worked
out by hand from the rule named; the witnesses meet the hypotheses of the obligation they are named after, at the
boundary values of each clause. -/

namespace Sys2Proof.Tests

open Sys2Proof Sys2Proof.Machine

/-! ## Well-formedness (R72, R82, R85, R86) -/

theorem test_wf_register_16_is_refused : AsmLine.wf ⟨.loadRegDelay, [.reg 16]⟩ = false := by decide
theorem test_wf_register_15_is_accepted : AsmLine.wf ⟨.loadRegDelay, [.reg 15]⟩ = true := by decide
theorem test_wf_immediate_256_is_refused : AsmLine.wf ⟨.loadRegImm, [.reg 0, .num 256]⟩ = false := by decide
theorem test_wf_address_4096_is_refused : AsmLine.wf ⟨.jump, [.num 4096]⟩ = false := by decide
theorem test_wf_count_16_is_refused : AsmLine.wf ⟨.draw, [.reg 0, .reg 1, .num 16]⟩ = false := by decide
theorem test_wf_number_for_register_is_refused : AsmLine.wf ⟨.addReg, [.reg 1, .num 2]⟩ = false := by decide
theorem test_wf_register_for_number_is_refused : AsmLine.wf ⟨.addImm, [.reg 1, .reg 2]⟩ = false := by decide
theorem test_wf_missing_operand_is_refused : AsmLine.wf ⟨.addReg, [.reg 1]⟩ = false := by decide
theorem test_wf_extra_operand_is_refused : AsmLine.wf ⟨.clearScreen, [.reg 1]⟩ = false := by decide
theorem test_wf_shift_with_and_without_vy :
    AsmLine.wf ⟨.shiftLeft, [.reg 1]⟩ = true ∧ AsmLine.wf ⟨.shiftLeft, [.reg 1, .reg 2]⟩ = true := by decide
theorem test_wf_data_256_is_refused : SourceLine.wf (.data 256) = false := by decide
theorem test_wf_ill_formed_code_is_refused : SourceLine.wf (.code ⟨.jump, []⟩) = false := by decide
theorem test_ill_formed_line_does_not_assemble : assemble ⟨.draw, [.reg 0, .reg 1, .num 16]⟩ = none := by decide

/-! ## Decoding: a word of every constructor, written out from R71 and R76 (the vectors of 2.1 among them) -/

theorem test_decode_family_0 :
    decode 0b0000000011100000#16 = .instr .clearScreen ∧ decode 0b0000000011101110#16 = .instr .subroutineReturn := by
  decide
theorem test_decode_jump : decode 0b0001101010111100#16 = .instr (.jump 0xABC#12) := by decide
theorem test_decode_subroutineCall : decode 0b0010111111111111#16 = .instr (.subroutineCall 0xFFF#12) := by decide
theorem test_decode_skipIfEqualImm : decode 0b0011101001000010#16 = .instr (.skipIfEqualImm 10 0x42#8) := by decide
theorem test_decode_skipIfNotEqualImm : decode 0b0100101001000010#16 = .instr (.skipIfNotEqualImm 10 0x42#8) := by decide
theorem test_decode_skipIfEqualReg : decode 0b0101101010110000#16 = .instr (.skipIfEqualReg 10 11) := by decide
theorem test_decode_loadRegImm : decode 0b0110111110101011#16 = .instr (.loadRegImm 15 0xAB#8) := by decide
theorem test_decode_addImm : decode 0b0111000111111111#16 = .instr (.addImm 1 0xFF#8) := by decide
theorem test_decode_family_8_moves :
    decode 0b1000000100100000#16 = .instr (.loadRegReg 1 2) ∧ decode 0b1000000100100001#16 = .instr (.orReg 1 2) ∧
      decode 0b1000000100100010#16 = .instr (.andReg 1 2) ∧ decode 0b1000000100100011#16 = .instr (.xorReg 1 2) := by
  decide
theorem test_decode_family_8_arithmetic :
    decode 0b1000000100100100#16 = .instr (.addReg 1 2) ∧ decode 0b1000000100100101#16 = .instr (.subtractReg 1 2) ∧
      decode 0b1000000100100110#16 = .instr (.shiftRight 1 2) ∧
      decode 0b1000101010110111#16 = .instr (.subtractRegReverse 10 11) ∧
      decode 0b1000101010111110#16 = .instr (.shiftLeft 10 11) := by
  decide
theorem test_decode_skipIfNotEqualReg : decode 0b1001000100100000#16 = .instr (.skipIfNotEqualReg 1 2) := by decide
theorem test_decode_loadAddress : decode 0b1010001100000001#16 = .instr (.loadAddress 0x301#12) := by decide
theorem test_decode_jumpOffset : decode 0b1011000000000000#16 = .instr (.jumpOffset 0x000#12) := by decide
theorem test_decode_random : decode 0b1100001100001111#16 = .instr (.random 3 0x0F#8) := by decide
theorem test_decode_draw : decode 0b1101000100100101#16 = .instr (.draw 1 2 5) := by decide
theorem test_decode_family_E :
    decode 0b1110111110011110#16 = .instr (.skipIfKeyPressed 15) ∧
      decode 0b1110000110100001#16 = .instr (.skipIfKeyNotPressed 1) := by
  decide
theorem test_decode_family_F_timers_and_keys :
    decode 0b1111001100000111#16 = .instr (.loadRegDelay 3) ∧ decode 0b1111111000001010#16 = .instr (.waitKey 14) ∧
      decode 0b1111000100010101#16 = .instr (.loadDelayReg 1) ∧ decode 0b1111000100011000#16 = .instr (.loadSoundReg 1) := by
  decide
theorem test_decode_family_F_memory :
    decode 0b1111001000011110#16 = .instr (.addAddress 2) ∧ decode 0b1111000100101001#16 = .instr (.loadDigitSprite 1) ∧
      decode 0b1111000100110011#16 = .instr (.storeBcd 1) ∧
      decode 0b1111001001010101#16 = .instr (.loadMemoryRegisters 2) ∧
      decode 0b1111111101100101#16 = .instr (.loadRegistersMemory 15) := by
  decide
/-- The illegal opcodes listed in 2.1. -/
theorem test_decode_illegal :
    ([0x0000#16, 0x00E1#16, 0x00FE#16, 0x01E0#16, 0x0123#16, 0x0FFF#16, 0x5121#16, 0x9ABF#16, 0x8128#16,
      0x812F#16].all fun op => decode op = .failure op) = true := by
  decide
/-- The illegal opcodes listed in 2.1. -/
theorem test_decode_illegal_E_F :
    ([0xE000#16, 0xE19F#16, 0xF000#16, 0xF102#16, 0xF13C#16, 0xF175#16, 0xF185#16, 0xF1FF#16].all
      fun op => decode op = .failure op) = true := by
  decide
/-- No opcode selects two rows (R73): any two rows differ in a bit that both masks fix. -/
theorem test_opcode_rows_are_disjoint :
    (opcodeTable.Pairwise fun p q => p.pattern &&& q.mask ≠ q.pattern &&& p.mask) := by decide
/-- R55, R70: the byte at the lower address is the high-order byte. -/
theorem test_decodeBytes : decodeBytes [0x8A, 0xB7, 0x00] = some (.instr (.subtractRegReverse 10 11), [0x00]) := by decide
theorem test_decodeBytes_one_byte : decodeBytes [0x8A] = none := by decide
/-- Program 1 of section 3 assembles to its ROM; a data byte follows. -/
theorem test_assemble_program :
    assembleProgram [.code ⟨.loadRegImm, [.reg 0, .num 0x05]⟩, .code ⟨.loadRegImm, [.reg 1, .num 0x00]⟩,
      .code ⟨.addReg, [.reg 1, .reg 0]⟩, .code ⟨.addImm, [.reg 0, .num 0xFF]⟩,
      .code ⟨.skipIfEqualImm, [.reg 0, .num 0x00]⟩, .code ⟨.jump, [.num 0x204]⟩, .code ⟨.jump, [.num 0x20C]⟩,
      .data 0xAB] =
    some [0x60, 0x05, 0x61, 0x00, 0x81, 0x04, 0x70, 0xFF, 0x30, 0x00, 0x12, 0x04, 0x12, 0x0C, 0xAB] := by decide

/-! ## Small states -/

/-- One step's inputs in which nothing happens. -/
def quietInput : StepInput := ⟨none, 0, 0⟩

/-- The state of the conventions of 95_test_vectors.md, with the named registers and `I`, and one step's inputs supplied. -/
def small (regs : List (Reg × Byte)) (i : Word) (input : StepInput) : State :=
  regs.foldl (fun s p => s.setV p.1 p.2) { State.reset with i := i, pending := [input] }

/-- The state with `op` placed at PC. -/
def placed (op : Word) (s : State) : State := s.withFetchWord 16 op.toNat

/-- The state with bytes placed in memory. -/
def holding (a : Nat) (bytes : List Byte) (s : State) : State := s.setMem (s.mem.writeAll a bytes)

/-- One step that executes `op` ends in a next state with property `p`. -/
def stepGives (op : Word) (s : State) (p : State → Bool) : Bool :=
  match step (placed op s) with
  | .next t => p t
  | .fault _ => false
  | .refused _ => false

/-- One step that executes `op` ends in a fault with this record and, in the state it leaves, property `p`. -/
def stepFaults (op : Word) (s : State) (r : FaultRecord) (p : State → Bool) : Bool :=
  match step (placed op s) with
  | .next _ => false
  | .fault (.raised q t) => q = r && t.fault = some r && p t
  | .refused _ => false

/-! ## The step and the faults -/

/-- Q1. -/
theorem test_Q1_step_without_image :
    stepFaults 0x0000#16 (small [] 0 quietInput) (.invalidInstruction 0 0x200) (fun t => t.pc = 0x202) = true := by decide
/-- Q2. -/
theorem test_Q2_illegal_opcode_keeps_the_tick :
    stepFaults 0x0123#16 ((small [] 0 ⟨none, 1, 0⟩).setDt 4) (.invalidInstruction 0x123 0x200)
      (fun t => t.pc = 0x202 && t.dt = 3) = true := by decide
/-- Q3. -/
theorem test_Q3_latched_step_is_refused :
    step (((small [] 0 ⟨none, 1, 0⟩).setDt 3).latch (.invalidInstruction 0x123 0x200)) =
      .refused (.faultLatched (.invalidInstruction 0x123 0x200)) := rfl
/-- Q4. -/
theorem test_Q4_fetch_at_the_last_byte :
    stepFaults 0x0000#16 ((small [] 0 quietInput).setPc 0xFFF) (.addressOutOfRange 0xFFF 2)
      (fun t => t.pc = 0xFFF) = true := by decide
/-- Q5. -/
theorem test_Q5_last_fetch :
    stepGives 0x6001#16 ((small [] 0 quietInput).setPc 0xFFE) (fun t => t.getV 0 = 1 && t.pc = 0x1000) = true := by decide
/-- Q6. -/
theorem test_Q6_odd_pc :
    stepGives 0x6142#16 ((small [] 0 quietInput).setPc 0x201) (fun t => t.getV 1 = 0x42 && t.pc = 0x203) = true := by decide
/-- Q7. -/
theorem test_Q7_timers_saturate :
    stepGives 0x1200#16 (((small [] 0 ⟨none, 5, 0⟩).setDt 3).setSt 0xC8)
      (fun t => t.dt = 0 && t.st = 0xC3 && t.pc = 0x200) = true := by decide

/-! ## Control flow -/

/-- K1. -/
theorem test_K1_return_on_an_empty_stack :
    stepGives 0x00EE#16 (small [] 0 quietInput) (fun t => t.pc = 0x200 && t.sp = 0) = true := by decide
/-- K2. -/
theorem test_K2_return :
    stepGives 0x00EE#16 (((small [] 0 quietInput).setStack [0x206, 0x300]).setPc 0x20C)
      (fun t => t.pc = 0x300 && t.stack = [0x206]) = true := by decide
/-- K3. -/
theorem test_K3_jump : stepGives 0x1ABC#16 (small [] 0 quietInput) (fun t => t.pc = 0xABC) = true := by decide
/-- K7. -/
theorem test_K7_call_takes_the_last_entry :
    stepGives 0x2300#16 ((small [] 0 quietInput).setStack (List.replicate 15 0x300))
      (fun t => t.pc = 0x300 && t.stack[15]? = some 0x202 && t.sp = 16) = true := by decide
/-- K8. -/
theorem test_K8_call_on_a_full_stack :
    stepFaults 0x2300#16 ((small [] 0 quietInput).setStack (List.replicate 16 0x300)) (.stackOverflow 0x202)
      (fun t => t.pc = 0x202 && t.stack = List.replicate 16 0x300) = true := by decide
/-- K9. -/
theorem test_K9_skipIfEqualImm :
    stepGives 0x3A42#16 (small [(10, 0x42)] 0 quietInput) (fun t => t.pc = 0x204) = true := by decide
/-- K10. -/
theorem test_K10_skipIfEqualImm_no_skip :
    stepGives 0x3A42#16 (small [(10, 0x43)] 0 quietInput) (fun t => t.pc = 0x202) = true := by decide
/-- K11. -/
theorem test_K11_skipIfNotEqualImm_no_skip :
    stepGives 0x4A42#16 (small [(10, 0x42)] 0 quietInput) (fun t => t.pc = 0x202) = true := by decide
/-- K12. -/
theorem test_K12_skipIfNotEqualImm :
    stepGives 0x4A42#16 (small [(10, 0x43)] 0 quietInput) (fun t => t.pc = 0x204) = true := by decide
/-- K13. -/
theorem test_K13_skipIfEqualReg :
    stepGives 0x5120#16 (small [(1, 7), (2, 7)] 0 quietInput) (fun t => t.pc = 0x204) = true := by decide
/-- K14. -/
theorem test_K14_skipIfEqualReg_no_skip :
    stepGives 0x5120#16 (small [(1, 7), (2, 8)] 0 quietInput) (fun t => t.pc = 0x202) = true := by decide
/-- K16. -/
theorem test_K16_skipIfNotEqualReg_no_skip :
    stepGives 0x9120#16 (small [(1, 7), (2, 7)] 0 quietInput) (fun t => t.pc = 0x202) = true := by decide
/-- K17. -/
theorem test_K17_skipIfNotEqualReg :
    stepGives 0x9120#16 (small [(1, 7), (2, 8)] 0 quietInput) (fun t => t.pc = 0x204) = true := by decide
/-- K20. -/
theorem test_K20_jumpOffset_is_not_masked :
    stepGives 0xBFFF#16 (small [(0, 0xFF)] 0 quietInput) (fun t => t.pc = 0x10FE) = true := by decide

/-! ## Loads and stores -/

/-- M1. -/
theorem test_M1_loadRegImm : stepGives 0x6FAB#16 (small [] 0 quietInput) (fun t => t.getV VF = 0xAB) = true := by decide
/-- M2. -/
theorem test_M2_loadRegReg :
    stepGives 0x8120#16 (small [(2, 0x7F)] 0 quietInput) (fun t => t.getV 1 = 0x7F && t.getV 2 = 0x7F) = true := by decide
/-- M4. -/
theorem test_M4_loadAddress : stepGives 0xAFFF#16 (small [] 0 quietInput) (fun t => t.i = 0xFFF) = true := by decide
/-- M5. -/
theorem test_M5_store_is_inclusive :
    stepGives 0xF255#16 (small [(0, 0x11), (1, 0x22), (2, 0x33), (3, 0x44)] 0x300 quietInput)
      (fun t => t.readByte 0x2FF = 0 && t.readByte 0x300 = 0x11 && t.readByte 0x301 = 0x22 && t.readByte 0x302 = 0x33 &&
        t.readByte 0x303 = 0 && t.i = 0x300) = true := by decide
/-- M7. -/
theorem test_M7_store_past_the_end :
    stepFaults 0xFF55#16 (small [(0, 1), (1, 2)] 0xFF1 quietInput) (.addressOutOfRange 0xFF1 16)
      (fun t => t.readByte 0xFF1 = 0 && t.readByte 0xFF2 = 0 && t.pc = 0x202) = true := by decide
/-- M11. -/
theorem test_M11_load_is_inclusive :
    stepGives 0xF265#16 (holding 0x300 [2, 3, 4, 9] (small [(3, 0x77)] 0x300 quietInput))
      (fun t => t.getV 0 = 2 && t.getV 1 = 3 && t.getV 2 = 4 && t.getV 3 = 0x77 && t.i = 0x300) = true := by decide
/-- M14. -/
theorem test_M14_load_does_not_wrap :
    stepFaults 0xF065#16 (small [(0, 0x55)] 0xFFFF quietInput) (.addressOutOfRange 0xFFFF 1)
      (fun t => t.getV 0 = 0x55) = true := by decide

/-! ## Display -/

/-- P1. -/
theorem test_P1_clearScreen :
    stepGives 0x00E0#16 ((small [(VF, 1)] 0 quietInput).setDisplay ((Vector.replicate 32 0).set 31 1))
      (fun t => t.display = Vector.replicate 32 0 && t.getV VF = 1 && !t.flush) = true := by decide
/-- P4, S9: no bit wraps into column 0. -/
theorem test_P4_draw_clips_at_the_right_edge :
    stepGives 0xD011#16 (holding 0x300 [0xFF] (small [(0, 0x3C)] 0x300 quietInput))
      (fun t => t.display = (Vector.replicate 32 0).set 0 0xF000000000000000 && t.getV VF = 0 && t.flush) = true := by decide
/-- P11. -/
theorem test_P11_draw_collides_in_one_row :
    stepGives 0xD012#16
      ((holding 0x300 [0xC0, 0xC0] (small [(0, 1)] 0x300 quietInput)).setDisplay ((Vector.replicate 32 0).set 1 4))
      (fun t => t.display = ((Vector.replicate 32 0).set 0 6).set 1 2 && t.getV VF = 1) = true := by decide
/-- P15. -/
theorem test_P15_draw_past_the_bottom_when_it_faults :
    stepFaults 0xD013#16
      { small [(1, 0x1E)] 0x300 quietInput with params := { Params.default with drawBottom := .fault } }
      (.displayRowOutOfRange 30 3) (fun t => t.display = Vector.replicate 32 0 && !t.flush) = true := by decide

/-! ## Arithmetic -/

/-- A1. -/
theorem test_A1_addImm :
    stepGives 0x7001#16 (small [(0, 0xFF)] 0 quietInput) (fun t => t.getV 0 = 0 && t.getV VF = 1) = true := by decide
/-- A6. -/
theorem test_A6_addImm_to_vf_leaves_the_carry :
    stepGives 0x7F01#16 (small [(VF, 2)] 0 quietInput) (fun t => t.getV VF = 0) = true := by decide
/-- S1. -/
theorem test_S1_addReg :
    stepGives 0x8124#16 (small [(1, 0xFF), (2, 1)] 0 quietInput)
      (fun t => t.getV 1 = 0 && t.getV 2 = 1 && t.getV VF = 1 && t.pc = 0x202) = true := by decide
/-- A10. -/
theorem test_A10_addReg_to_vf_leaves_the_carry :
    stepGives 0x8F14#16 (small [(VF, 0x10), (1, 0x20)] 0 quietInput) (fun t => t.getV VF = 0) = true := by decide
/-- S4, which decides conflict C1. -/
theorem test_S4_subtractReg_borrow :
    stepGives 0x8125#16 (small [(1, 3), (2, 5)] 0 quietInput) (fun t => t.getV 1 = 0xFE && t.getV VF = 0) = true := by decide
/-- A17. -/
theorem test_A17_subtractReg_to_vf_leaves_the_difference :
    stepGives 0x8F15#16 (small [(VF, 5), (1, 3)] 0 quietInput) (fun t => t.getV VF = 2) = true := by decide
/-- A21. -/
theorem test_A21_subtractRegReverse :
    stepGives 0x8127#16 (small [(1, 3), (2, 5)] 0 quietInput) (fun t => t.getV 1 = 2 && t.getV VF = 1) = true := by decide
/-- A25. -/
theorem test_A25_subtractRegReverse_from_vf :
    stepGives 0x81F7#16 (small [(1, 5), (VF, 3)] 0 quietInput) (fun t => t.getV 1 = 0xFE && t.getV VF = 0) = true := by decide

/-! ## Logic and shifts -/

/-- G1. -/
theorem test_G1_orReg :
    stepGives 0x8121#16 (small [(1, 0x0F), (2, 0xF1), (VF, 1)] 0 quietInput)
      (fun t => t.getV 1 = 0xFF && t.getV VF = 1) = true := by decide
/-- G2. -/
theorem test_G2_andReg :
    stepGives 0x8122#16 (small [(1, 0x3C), (2, 0x0F), (VF, 1)] 0 quietInput)
      (fun t => t.getV 1 = 0x0C && t.getV VF = 1) = true := by decide
/-- G3. -/
theorem test_G3_xorReg :
    stepGives 0x8123#16 (small [(1, 0xFF), (2, 0x0F)] 0 quietInput) (fun t => t.getV 1 = 0xF0) = true := by decide
/-- G6. -/
theorem test_G6_shiftRight_ignores_y :
    stepGives 0x8126#16 (small [(1, 3), (2, 0xFF)] 0 quietInput)
      (fun t => t.getV 1 = 1 && t.getV 2 = 0xFF && t.getV VF = 1) = true := by decide
/-- G11. -/
theorem test_G11_shiftRight_of_vf_loses_the_flag :
    stepGives 0x8F06#16 (small [(VF, 2)] 0 quietInput) (fun t => t.getV VF = 1) = true := by decide
/-- S6. -/
theorem test_S6_shiftLeft :
    stepGives 0x810E#16 (small [(1, 0x81)] 0 quietInput) (fun t => t.getV 1 = 2 && t.getV VF = 1) = true := by decide
/-- G16. -/
theorem test_G16_shiftLeft_of_vf_loses_the_flag :
    stepGives 0x8F0E#16 (small [(VF, 0x41)] 0 quietInput) (fun t => t.getV VF = 0x82) = true := by decide

/-! ## Random, keys, timers, address, digits, BCD -/

/-- T1. -/
theorem test_T1_random : stepGives 0xC30F#16 (small [] 0 ⟨none, 0, 0xA7⟩) (fun t => t.getV 3 = 7) = true := by decide
/-- T5. -/
theorem test_T5_skipIfKeyPressed :
    stepGives 0xE29E#16 (small [(2, 7)] 0 ⟨some 7, 0, 0⟩) (fun t => t.pc = 0x204) = true := by decide
/-- T8. -/
theorem test_T8_skipIfKeyPressed_does_not_mask :
    stepGives 0xE29E#16 (small [(2, 0x17)] 0 ⟨some 7, 0, 0⟩) (fun t => t.pc = 0x202) = true := by decide
/-- T11. -/
theorem test_T11_skipIfKeyNotPressed_no_skip :
    stepGives 0xE2A1#16 (small [(2, 7)] 0 ⟨some 7, 0, 0⟩) (fun t => t.pc = 0x202) = true := by decide
/-- T13. -/
theorem test_T13_skipIfKeyNotPressed_without_a_key :
    stepGives 0xE2A1#16 (small [(2, 7)] 0 quietInput) (fun t => t.pc = 0x204) = true := by decide
/-- T16. -/
theorem test_T16_loadRegDelay_reads_after_the_tick :
    stepGives 0xF307#16 ((small [] 0 ⟨none, 2, 0⟩).setDt 0x2A) (fun t => t.getV 3 = 0x28 && t.dt = 0x28) = true := by decide
/-- T19. -/
theorem test_T19_waitKey :
    stepGives 0xF50A#16 (small [(5, 1)] 0 ⟨some 0xB, 0, 0⟩) (fun t => t.getV 5 = 0xB && t.pc = 0x202) = true := by decide
/-- T21. -/
theorem test_T21_waitKey_without_a_key :
    stepGives 0xF50A#16 (((small [] 0 ⟨none, 2, 0⟩).setDt 5).setSt 1)
      (fun t => t.dt = 3 && t.st = 0 && t.pc = 0x200) = true := by decide
/-- T22. -/
theorem test_T22_loadDelayReg_after_the_tick :
    stepGives 0xF015#16 ((small [(0, 0x3C)] 0 ⟨none, 10, 0⟩).setDt 5) (fun t => t.dt = 0x3C) = true := by decide
/-- T23. -/
theorem test_T23_loadSoundReg :
    stepGives 0xF018#16 ((small [(0, 5)] 0 ⟨none, 1, 0⟩).setSt 9) (fun t => t.st = 5) = true := by decide
/-- T24. -/
theorem test_T24_addAddress_writes_no_flag :
    stepGives 0xF21E#16 (small [(2, 1), (VF, 7)] 0xFFF quietInput) (fun t => t.i = 0x1000 && t.getV VF = 7) = true := by decide
/-- T25. -/
theorem test_T25_addAddress_wraps :
    stepGives 0xF21E#16 (small [(2, 2)] 0xFFFF quietInput) (fun t => t.i = 1) = true := by decide
/-- T28. -/
theorem test_T28_loadDigitSprite :
    stepGives 0xF029#16 (small [(0, 0xA)] 0 quietInput) (fun t => t.i = 0x32) = true := by decide
/-- T31. -/
theorem test_T31_loadDigitSprite_does_not_mask :
    stepGives 0xF029#16 (small [(0, 0xFF)] 0 quietInput) (fun t => t.i = 0x4FB) = true := by decide
/-- T35. -/
theorem test_T35_storeBcd :
    stepGives 0xF033#16 (small [(0, 0xEA)] 0x300 quietInput)
      (fun t => t.readByte 0x300 = 2 && t.readByte 0x301 = 3 && t.readByte 0x302 = 4) = true := by decide
/-- T38. -/
theorem test_T38_storeBcd_past_the_end :
    stepFaults 0xF033#16 (small [(0, 0xFF)] 0xFFE quietInput) (.addressOutOfRange 0xFFE 3)
      (fun t => t.readByte 0xFFE = 0 && t.readByte 0xFFF = 0) = true := by decide

/-! ## The host's operations -/

/-- L2: an empty ROM copies the font only. -/
theorem test_L2_load_of_an_empty_rom :
    (match loadImage [] State.reset with
      | .ok t => decide (t.readByte 0 = 0xF0 ∧ t.readByte 0x4F = 0x80 ∧ t.readByte 0x50 = 0 ∧ t.readByte 0x200 = 0)
      | .error _ => false) = true := by decide
/-- L3. -/
theorem test_L3_load_of_one_byte :
    (match loadImage [0xAB] State.reset with
      | .ok t => decide (t.readByte 0x200 = 0xAB ∧ t.readByte 0x201 = 0)
      | .error _ => false) = true := by decide
/-- R241: Reset clears the latch. -/
theorem test_hostReset_clears_the_latch :
    (hostReset ((small [(1, 2)] 5 quietInput).latch (.stackOverflow 0))).fault = none := by decide
/-- The host's word reaches the decoder, and step runs it. -/
theorem test_decodeTableWord : decodeTableWord 16 0x8AB7 = some (.subtractRegReverse 10 11) := by decide

/-! ## Witnesses: for each obligation with hypotheses, concrete states and operands that meet all of them, clause by clause -/

/-- The state of the conventions of 95_test_vectors.md, every register 0. -/
def base : State := small [] 0 quietInput

/-- The same with the other setting of DRAW_BOTTOM. -/
def baseFault : State := { base with params := { Params.default with drawBottom := .fault } }

theorem next_of_stepGives {op : Word} {s : State} {p : State → Bool} (h : stepGives op s p = true) :
    ∃ t, step (placed op s) = .next t ∧ p t = true := by
  unfold stepGives at h
  split at h
  · next t ht => exact ⟨t, ht, h⟩
  · cases h
  · cases h

theorem fault_of_stepFaults {op : Word} {s : State} {r : FaultRecord} {p : State → Bool}
    (h : stepFaults op s r p = true) : ∃ t, step (placed op s) = .fault (.raised r t) ∧ p t = true := by
  unfold stepFaults at h
  split at h
  · cases h
  · next q t ht =>
    simp only [Bool.and_eq_true, decide_eq_true_eq] at h
    exact ⟨t, h.1.1 ▸ ht, h.2⟩
  · cases h

theorem witness_EncodeOfDecodeIsTheOpcode : ∃ op i, decode op = .instr i := ⟨0xFFFF#16 - 0x9A, .loadRegistersMemory 15, by decide⟩

theorem witness_FetchIsBigEndian : ∃ s : State, s.pc.toNat = 4094 ∧ s.pc.toNat ≤ 4094 := ⟨base.setPc 0xFFE, by decide⟩

/-- Both bounds of PC. -/
theorem witness_StepRunsTheDecodedInstruction :
    (∃ (s : State) (i : Instr), s.fault = none ∧ s.pc.toNat = 0 ∧
      decode (joinBytes (s.readByte s.pc.toNat) (s.readByte (s.pc.toNat + 1))) = .instr i) ∧
    ∃ (s : State) (i : Instr), s.fault = none ∧ s.pc.toNat = 4094 ∧
      decode (joinBytes (s.readByte s.pc.toNat) (s.readByte (s.pc.toNat + 1))) = .instr i :=
  ⟨⟨placed 0x00E0#16 (base.setPc 0), .clearScreen, by decide⟩,
    ⟨placed 0x00E0#16 (base.setPc 0xFFE), .clearScreen, by decide⟩⟩

theorem witness_StateHandedToExecute :
    (∃ s : State, s.pc.toNat = 4094) ∧ (∃ (s : State) (now : StepInput) (rest : List StepInput), s.pending = now :: rest) ∧
      ∃ s : State, s.pending = [] :=
  ⟨⟨base.setPc 0xFFE, by decide⟩, ⟨base, quietInput, [], rfl⟩, ⟨State.reset, rfl⟩⟩

theorem witness_UndecodableOpcodeFaults :
    ∃ (s : State) (op : Word), s.fault = none ∧ fetchOpcode s = some op ∧ decode op = .failure op :=
  ⟨placed 0x8128#16 (base.setPc 0xFFE), 0x8128#16, by decide⟩

theorem witness_FetchOutOfRangeFaults : ∃ s : State, s.fault = none ∧ s.pc.toNat = 4095 ∧ 4094 < s.pc.toNat :=
  ⟨base.setPc 0xFFF, by decide⟩

theorem witness_StepIsRefusedWhileAFaultIsLatched : ∃ (s : State) (r : FaultRecord), s.fault = some r :=
  ⟨base.latch (.stackOverflow 0x202), .stackOverflow 0x202, rfl⟩

theorem witness_StepAlwaysAnswersWhenNoFaultIsLatched : ∃ s : State, s.fault = none := ⟨base, rfl⟩

/-- All three clauses on one step. -/
theorem witness_TimersChangeByTicksAndTheirOwnWrites :
    ∃ s t : State, step s = .next t ∧ (∀ x, s.nextInstr ≠ some (.loadDelayReg x)) ∧
      (∀ x, s.nextInstr ≠ some (.loadSoundReg x)) ∧ ∃ now rest, s.pending = now :: rest := by
  obtain ⟨t, ht, -⟩ := next_of_stepGives test_Q7_timers_saturate
  exact ⟨_, t, ht, by decide, by decide, _, _, rfl⟩

/-- A step that faults in its fetch (PC is 4095) and one that faults behind it (PC is 4094). -/
theorem witness_FaultingStepPerformsNoWriteOfTheInstruction :
    (∃ (s t : State) (r : FaultRecord), step s = .fault (.raised r t) ∧ s.pc.toNat = 4095) ∧
      ∃ (s t : State) (r : FaultRecord), step s = .fault (.raised r t) ∧ s.pc.toNat = 4094 := by
  obtain ⟨t, ht, -⟩ := fault_of_stepFaults test_Q4_fetch_at_the_last_byte
  obtain ⟨u, hu, -⟩ := fault_of_stepFaults (op := 0xFF55#16) (s := (base.setPc 0xFFE).setI 0xFF1)
    (r := .addressOutOfRange 0xFF1 16) (p := fun _ => true) (by decide)
  exact ⟨⟨_, t, _, ht, by decide⟩, _, u, _, hu, by decide⟩

/-- One step for each of the four causes. -/
theorem witness_StepFaultsOnlyForTheCausesListed :
    (∃ (s t : State) (op a : Word), step s = .fault (.raised (.invalidInstruction op a) t)) ∧
    (∃ (s t : State) (a n : Nat), step s = .fault (.raised (.addressOutOfRange a n) t)) ∧
    (∃ (s t : State) (w : Word), step s = .fault (.raised (.stackOverflow w) t)) ∧
    ∃ (s t : State) (y0 n : Nat), step s = .fault (.raised (.displayRowOutOfRange y0 n) t) := by
  obtain ⟨t1, h1, -⟩ := fault_of_stepFaults test_Q1_step_without_image
  obtain ⟨t2, h2, -⟩ := fault_of_stepFaults test_M7_store_past_the_end
  obtain ⟨t3, h3, -⟩ := fault_of_stepFaults test_K8_call_on_a_full_stack
  obtain ⟨t4, h4, -⟩ := fault_of_stepFaults test_P15_draw_past_the_bottom_when_it_faults
  exact ⟨⟨_, t1, _, _, h1⟩, ⟨_, t2, _, _, h2⟩, ⟨_, t3, _, h3⟩, _, t4, _, _, h4⟩

/-- A step to a next state and a step to a fault, both from the invariant: K7 and K8 with a full and an almost full stack of
the highest return address. -/
theorem witness_EveryStepKeepsTheInvariant :
    (∃ s t : State, s.Inv ∧ step s = .next t) ∧ ∃ (s t : State) (r : FaultRecord), s.Inv ∧ step s = .fault (.raised r t) := by
  obtain ⟨t, ht, -⟩ := next_of_stepGives (op := 0x2FFF#16) (s := base.setStack (List.replicate 15 0x1000))
    (p := fun _ => true) (by decide)
  obtain ⟨u, hu, -⟩ := fault_of_stepFaults (op := 0x2FFF#16) (s := base.setStack (List.replicate 16 0x1000))
    (r := .stackOverflow 0x202) (p := fun _ => true) (by decide)
  have hr : ∀ n, ∀ w ∈ List.replicate n (0x1000 : Word), w.toNat ≤ 4096 := fun n w hw => by
    rw [List.eq_of_mem_replicate hw]
    decide
  exact ⟨⟨_, t, ⟨by decide, by decide, hr 15, by decide, by decide⟩, ht⟩,
    _, u, _, ⟨by decide, by decide, hr 16, by decide, by decide⟩, hu⟩

theorem witness_ResetLeavesTheResetValues :
    (∃ t, t = State.reset) ∧ ∃ t s : State, t = hostReset s ∧ s.fault ≠ none :=
  ⟨⟨_, rfl⟩, _, base.latch (.stackOverflow 0x202), rfl, by decide⟩

theorem witness_LoadImageFailsExactlyFrom3584Bytes :
    (∃ rom : List Byte, 3584 ≤ rom.length ∧ rom.length = 3584) ∧ ∃ rom : List Byte, rom.length ≤ 3583 ∧ rom.length = 3583 :=
  ⟨⟨List.replicate 3584 0xAB, by rw [List.length_replicate]; decide⟩,
    List.replicate 3583 0xAB, by rw [List.length_replicate]; decide⟩

/-- An empty ROM, and one whose clause for a ROM byte applies. -/
theorem witness_LoadImageWritesFontAndRomOnly :
    (∃ (s t : State), s.mem.wf ∧ loadImage [] s = .ok t) ∧
      ∃ (rom : List Byte) (s t : State), s.mem.wf ∧ loadImage rom s = .ok t ∧ 0 < rom.length :=
  ⟨⟨State.reset, _, by decide, rfl⟩, [0xAB], State.reset, _, by decide, rfl, by decide⟩

/-- M10: the last two registers stored are the next opcode. -/
theorem witness_StoredCodeIsFetchedNext :
    ∃ (x j k : Reg) (s t : State), s.mem.wf ∧ exec (.loadMemoryRegisters x) s = .next t ∧ k.val = j.val + 1 ∧ k ≤ x ∧
      s.pc.toNat = s.i.toNat + j.val :=
  ⟨1, 0, 1, ((base.setV 0 0x12).setV 1 0x34).setI 0x200, _, by decide, rfl, by decide, by decide, by decide⟩

theorem witness_FinishedRunsStayFinished : ∃ s : State, s.finished = true := ⟨placed 0x1200#16 base, by decide⟩

/-- Either side of each disjunction. -/
theorem witness_UnconsumedInputsHaveNoEffect :
    (∃ (i : Instr) (s : State) (j : StepInput), i.consumesKey = false ∧ i.consumesRnd = false ∧ j ≠ s.input) ∧
    (∃ (i : Instr) (s : State) (j : StepInput), j.key = s.input.key ∧ i.consumesKey = true ∧ i.consumesRnd = false) ∧
    ∃ (i : Instr) (s : State) (j : StepInput), i.consumesKey = false ∧ i.consumesRnd = true ∧ j.rnd = s.input.rnd :=
  ⟨⟨.clearScreen, base, ⟨some 3, 1, 2⟩, by decide⟩, ⟨.waitKey 0, base, ⟨none, 1, 2⟩, by decide⟩,
    .random 0 0xFF, base, ⟨some 3, 1, 0⟩, by decide⟩

/-- A register that is no destination, and VF where it is no flag. -/
theorem witness_RegistersChangeOnlyWhereNamedOrFlagged :
    ∃ (i : Instr) (s t : State), exec i s = .next t ∧ (3 : Reg) ∉ i.namedDests ∧ VF ∉ i.namedDests ∧ i.writesFlag = false :=
  ⟨.orReg 1 2, base, _, rfl, by decide⟩

theorem witness_OnlyTheTwoStoresChangeMemory :
    ∃ s t : State, step s = .next t ∧ (∀ x, s.nextInstr ≠ some (.loadMemoryRegisters x)) ∧
      (∀ x, s.nextInstr ≠ some (.storeBcd x)) := by
  obtain ⟨t, ht, -⟩ := next_of_stepGives test_K3_jump
  exact ⟨_, t, ht, by decide, by decide⟩

theorem witness_OnlyClearScreenAndDrawChangeTheDisplay :
    ∃ s t : State, step s = .next t ∧ s.nextInstr ≠ some .clearScreen ∧ (∀ x y n, s.nextInstr ≠ some (.draw x y n)) := by
  obtain ⟨t, ht, -⟩ := next_of_stepGives test_K3_jump
  have hn : (placed 0x1ABC#16 (small [] 0 quietInput)).nextInstr = some (.jump 0xABC#12) := by decide
  exact ⟨_, t, ht, by rw [hn]; simp, by rw [hn]; simp⟩

/-- A step that executes Draw, and one that does not. -/
theorem witness_FlushExactlyAfterDraw :
    (∃ s t : State, step s = .next t ∧ ∃ x y n, s.nextInstr = some (.draw x y n)) ∧
      ∃ s t : State, step s = .next t ∧ ∀ x y n, s.nextInstr ≠ some (.draw x y n) := by
  obtain ⟨t, ht, -⟩ := next_of_stepGives test_P4_draw_clips_at_the_right_edge
  obtain ⟨u, hu, -⟩ := next_of_stepGives test_K3_jump
  have hn : (placed 0x1ABC#16 (small [] 0 quietInput)).nextInstr = some (.jump 0xABC#12) := by decide
  exact ⟨⟨_, t, ht, 0, 1, 1, by decide⟩, _, u, hu, by rw [hn]; simp⟩

theorem witness_OnlyCallAndReturnChangeTheStack :
    ∃ s t : State, step s = .next t ∧ (∀ a, s.nextInstr ≠ some (.subroutineCall a)) ∧
      s.nextInstr ≠ some .subroutineReturn := by
  obtain ⟨t, ht, -⟩ := next_of_stepGives test_K3_jump
  have hn : (placed 0x1ABC#16 (small [] 0 quietInput)).nextInstr = some (.jump 0xABC#12) := by decide
  exact ⟨_, t, ht, by rw [hn]; simp, by rw [hn]; simp⟩

/-- K7 and K8: one entry left, and none. -/
theorem witness_SubroutineCallPushesOrOverflows :
    (∃ s : State, s.sp < s.params.stackDepth ∧ s.sp = 15) ∧ ∃ s : State, s.params.stackDepth ≤ s.sp ∧ s.sp = 16 :=
  ⟨⟨base.setStack (List.replicate 15 0x300), by decide⟩, base.setStack (List.replicate 16 0x300), by decide⟩

theorem witness_SubroutineReturnPopsOrFallsBack :
    (∃ (s : State) (l : List Word) (w : Word), s.stack = l ++ [w]) ∧ ∃ s : State, s.stack = [] :=
  ⟨⟨base.setStack [0x206], [], 0x206, rfl⟩, base, rfl⟩

theorem witness_ReturnComesBackBehindTheCall :
    ∃ s w : State, s.sp < s.params.stackDepth ∧ w.stack = s.stack ++ [s.pc] ∧ w ≠ s :=
  ⟨base, (base.setStack [0x200]).setI 7, by decide⟩

/-- K9 to K18: each comparison holds, and fails. -/
theorem witness_CompareSkipsAdvanceByTwoWhenTheComparisonHolds :
    (∃ (s : State) (x : Reg) (kk : Byte), s.getV x = kk) ∧ (∃ (s : State) (x : Reg) (kk : Byte), s.getV x ≠ kk) ∧
      (∃ (s : State) (x y : Reg), x ≠ y ∧ s.getV x = s.getV y) ∧ ∃ (s : State) (x y : Reg), s.getV x ≠ s.getV y :=
  ⟨⟨base.setV 10 0x42, 10, 0x42, by decide⟩, ⟨base.setV 10 0x43, 10, 0x42, by decide⟩, ⟨base, 1, 2, by decide⟩,
    base.setV 1 7, 1, 2, by decide⟩

theorem witness_ControlFlowTouchesOnlyPcAndTheStack :
    ∃ (i : Instr) (s t : State), i.isControlFlow = true ∧ exec i s = .next t := ⟨.subroutineCall 0xFFF#12, base, _, rfl, rfl⟩

/-- M6 and M7: the last byte stored is the last of memory, or lies behind it. -/
theorem witness_LoadMemoryRegistersStoresInclusive :
    (∃ (x : Reg) (s : State), s.mem.wf ∧ s.i.toNat + x.val = 4095) ∧
      ∃ (x : Reg) (s : State), s.mem.wf ∧ s.i.toNat + x.val = 4096 :=
  ⟨⟨15, base.setI 0xFF0, by decide⟩, 15, base.setI 0xFF1, by decide⟩

theorem witness_LoadRegistersMemoryLoadsInclusive :
    (∃ (x : Reg) (s : State), s.i.toNat + x.val = 4095) ∧ ∃ (x : Reg) (s : State), s.i.toNat + x.val = 4096 :=
  ⟨⟨15, base.setI 0xFF0, by decide⟩, 15, base.setI 0xFF1, by decide⟩

/-- The state to load in keeps the memory and I, and differs in a register. -/
theorem witness_StoreThenLoadGivesTheRegistersBack :
    ∃ (x : Reg) (s t w : State), s.mem.wf ∧ s.i.toNat + x.val ≤ 4095 ∧ exec (.loadMemoryRegisters x) s = .next t ∧
      w.i = t.i ∧ (∀ k, k ≤ x.val → w.readByte (t.i.toNat + k) = t.readByte (t.i.toNat + k)) ∧ w.getV 0 ≠ t.getV 0 := by
  have he : exec (.loadMemoryRegisters 3) ((base.setV 0 0x11).setI 0x300) =
      .next (((base.setV 0 0x11).setI 0x300).setMem [(0x300, 0x11)]) := rfl
  exact ⟨3, _, _, (((base.setV 0 0x11).setI 0x300).setMem [(0x300, 0x11)]).setV 0 0x99, by decide, by decide, he, rfl,
    fun _ _ => rfl, by decide⟩

/-- No byte at all from an I outside memory; the last byte of memory; a sprite that ends at row 31 when DRAW_BOTTOM is
`fault`; a display where the sprite collides, and one where it does not. -/
theorem witness_DrawXorsTheSpritePixelByPixel :
    (∃ (n : Nibble) (s : State), n = 0 ∧ s.i.toNat = 0x1234) ∧
    (∃ (y : Reg) (n : Nibble) (s : State), s.i.toNat + n.val = 4096 ∧ s.params.drawBottom = .clip ∧ (s.getV y).toNat = 31) ∧
    (∃ (y : Reg) (n : Nibble) (s : State), s.i.toNat + n.val ≤ 4096 ∧ s.params.drawBottom = .fault ∧
      (s.getV y).toNat % 32 + n.val = 32) ∧
    (∃ (s : State) (r : Fin 32) (c : Nat), c < 64 ∧ s.pixel r c = true ∧ spritePixel s 0 0 1 r c = true) ∧
    ∃ s : State, (∀ (r : Fin 32) (c : Nat), s.pixel r c = false) ∧ spritePixel s 0 0 1 0 7 = true :=
  ⟨⟨0, base.setI 0x1234, by decide⟩, ⟨1, 15, (base.setI 0xFF1).setV 1 31, by decide⟩,
    ⟨1, 3, (baseFault.setI 0x300).setV 1 29, by decide⟩,
    ⟨holding 0 [0x81] (base.setDisplay ((Vector.replicate 32 0).set 0 0x80)), 0, 7, by decide⟩,
    holding 0 [0x81] base, by simp [State.pixel, holding, base, small, State.reset, State.setMem], by decide⟩

/-- One byte past the memory, and a sprite whose last byte is the memory's last and whose last row is row 32. -/
theorem witness_DrawFaultsBeforeTouchingTheDisplay :
    (∃ (n : Nibble) (s : State), 1 ≤ n.val ∧ s.i.toNat + n.val = 4097) ∧
    ∃ (y : Reg) (n : Nibble) (s : State), 1 ≤ n.val ∧ s.i.toNat + n.val = 4096 ∧ s.params.drawBottom = .fault ∧
      (s.getV y).toNat % 32 + n.val - 1 = 32 :=
  ⟨⟨1, base.setI 0x1000, by decide⟩, 1, 3, (baseFault.setI 0xFFD).setV 1 30, by decide⟩

/-- P2: the glyph of 0 on a blank display. -/
theorem witness_DrawingTwiceRestoresTheDisplay :
    ∃ (x y : Reg) (n : Nibble) (s t : State), exec (.draw x y n) s = .next t ∧ t.getV x = s.getV x ∧
      t.getV y = s.getV y ∧ (∀ (r : Fin 32) (c : Nat), s.pixel r c = false) ∧ spritePixel s 0 0 5 4 3 = true :=
  ⟨1, 2, 5, holding 0 [0xF0, 0x90, 0x90, 0x90, 0xF0] base, _, rfl, by decide, by decide,
    by simp [State.pixel, holding, base, small, State.reset, State.setMem], by decide⟩

theorem witness_AdditionsWriteSumThenCarry : ∃ x : Reg, x ≠ VF ∧ x = 14 := ⟨14, by decide⟩

theorem witness_SubtractionsWriteNotBorrowThenDifference : ∃ x : Reg, x ≠ VF ∧ x = 14 := ⟨14, by decide⟩

theorem witness_ShiftsWriteBitOutThenResult : ∃ x : Reg, x ≠ VF ∧ x = 14 := ⟨14, by decide⟩

/-- T5, T8 and T7. -/
theorem witness_KeySkipsAreOppositesOnTheReportedKey :
    (∃ (x : Reg) (s : State) (k : Nibble), s.input.key = some k ∧ k.val = (s.getV x).toNat) ∧
    (∃ (x : Reg) (s : State) (k : Nibble), s.input.key = some k ∧ k.val ≠ (s.getV x).toNat) ∧
    ∃ s : State, s.input.key = none :=
  ⟨⟨2, (base.withInput ⟨some 15, 0, 0⟩).setV 2 0x0F, 15, by decide⟩,
    ⟨2, (base.withInput ⟨some 15, 0, 0⟩).setV 2 0x1F, 15, by decide⟩, base, rfl⟩

theorem witness_LoadRegDelayReadsTheTickedTimer :
    ∃ (x : Reg) (s : State), s.fault = none ∧ s.nextInstr = some (.loadRegDelay x) :=
  ⟨3, placed 0xF307#16 base, by decide⟩

theorem witness_WaitKeyStoresTheKeyOrTakesPcBack :
    (∃ (s : State) (k : Nibble), s.input.key = some k) ∧ ∃ s : State, s.input.key = none :=
  ⟨⟨base.withInput ⟨some 0, 0, 0⟩, 0, rfl⟩, base, rfl⟩

theorem witness_WaitKeyStepStaysOnItselfWithoutAKey :
    ∃ (x : Reg) (s : State) (now : StepInput) (rest : List StepInput), s.fault = none ∧ s.nextInstr = some (.waitKey x) ∧
      s.pending = now :: rest ∧ now.key = none :=
  ⟨5, placed 0xF50A#16 base, quietInput, [], by decide⟩

/-- T37 and T38. -/
theorem witness_StoreBcdStoresTheDecimalDigits :
    (∃ s : State, s.mem.wf ∧ s.i.toNat + 2 = 4095) ∧ ∃ s : State, s.mem.wf ∧ s.i.toNat + 2 = 4096 :=
  ⟨⟨base.setI 0xFFD, by decide⟩, base.setI 0xFFE, by decide⟩

end Sys2Proof.Tests
end

section
/-! Proofs of the memory family (20_memory.md): the fetch. -/

namespace Sys2Proof.Machine

/-- With both bytes of the opcode inside memory the fetch succeeds (R102). -/
theorem fetchOpcode_of_pc_le {s : State} (hpc : s.pc.toNat ≤ 4094) :
    fetchOpcode s = some (joinBytes (s.readByte s.pc.toNat) (s.readByte (s.pc.toNat + 1))) := by
  rcases fetchOpcode_cases s with ⟨-, hf⟩ | ⟨hpast, -⟩
  · exact hf
  · omega

/-- Settles O8: the fetch joins the two bytes at PC, and joining puts the first one in the high-order place. -/
theorem fetchIsBigEndian : Obligations.FetchIsBigEndian := by
  intro s hpc
  exact ⟨_, fetchOpcode_of_pc_le hpc, joinBytes_toNat _ _⟩

end Sys2Proof.Machine
end

section
/-! Proofs of the sequencer family (40_sequencer.md): a step from a state with no fault latched always answers. -/

namespace Sys2Proof.Machine

/-- The step went on with no fault latched, or it stopped in a fault whose record the state it leaves has latched; it was
not refused (R44, R110, R216). -/
def NextOrLatched (o : Result) : Prop :=
  (∃ t, o = .next t ∧ t.fault = none) ∨ ∃ r t, o = .fault (.raised r t) ∧ t.fault = some r

/-- `raise` latches the record it answers (R216). -/
theorem raise_nextOrLatched (r : FaultRecord) (s : State) : NextOrLatched (raise r s) :=
  .inr ⟨r, s.latch r, rfl, s.latch_fault r⟩

/-- An execute rule that starts with no fault latched never leaves the step unanswered (R105, R110). -/
theorem Answers.nextOrLatched {s : State} {o : Result} (h : Answers s o) (hF : s.fault = none) : NextOrLatched o := by
  cases h with
  | ok t hfault => exact .inl ⟨t, rfl, hfault.trans hF⟩
  | range addr len => exact raise_nextOrLatched _ s
  | full => exact raise_nextOrLatched _ s
  | bottom y0 n => exact raise_nextOrLatched _ s

/-- Of everything a step can do, only the refusal needs a latched fault (R109, R110). -/
theorem StepDoes.nextOrLatched {s : State} {o : Result} (h : StepDoes s o) (hF : s.fault = none) : NextOrLatched o := by
  cases h with
  | latched r hr => simp [hF] at hr
  | outOfRange => exact raise_nextOrLatched _ _
  | illegal op => exact raise_nextOrLatched _ _
  | executes op i => exact (exec_answers i _).nextOrLatched (by simpa using hF)

/-- Settles O14: the step does one of the cases of `StepDoes`, and with no fault latched each of them answers. -/
theorem stepAlwaysAnswersWhenNoFaultIsLatched : Obligations.StepAlwaysAnswersWhenNoFaultIsLatched :=
  fun s hF => (step_does s).nextOrLatched hF

end Sys2Proof.Machine
end

section
/-! Proofs of the control-flow family (41_control_flow.md): the jump and the four compare skips. -/

namespace Sys2Proof.Machine

/-- Zero extension keeps the value of an address (R72). -/
@[simp] theorem zextAddr_toNat (a : Addr12) : (zextAddr a).toNat = a.toNat :=
  BitVec.toNat_setWidth_of_le (by decide)

/-- Writing PC is a change of PC alone. -/
theorem State.setPc_onlyPc (s : State) (w : Word) : OnlyPc s (s.setPc w) := by
  refine ⟨fun r _ => s.setPc_getV w r, s.setPc_readByte w, ?specials, ?signals⟩
  case specials => simp [SpecialsKept]
  case signals => simp [SignalsKept]

/-- A skip, taken or not, is a change of PC alone. -/
theorem State.skipIf_onlyPc (s : State) (c : Bool) : OnlyPc s (s.skipIf c) := by
  refine ⟨fun r _ => s.skipIf_getV c r, s.skipIf_readByte c, ?specials, ?signals⟩
  case specials => simp [SpecialsKept]
  case signals => simp [SignalsKept]

/-- An instruction whose meaning is the skip on `taken` completes, advances PC by an extra 2 when `taken` holds and leaves
it where `other` rules `taken` out, and changes nothing else. -/
theorem exec_skip_spec {i : Instr} {s : State} {taken other : Prop} [Decidable taken]
    (hexec : exec i s = .next (s.skipIf taken)) (hother : other → ¬ taken) :
    ∃ t, exec i s = .next t ∧ OnlyPc s t ∧ (taken → t.pc = s.pc + 2) ∧ (other → t.pc = s.pc) := by
  refine ⟨_, hexec, s.skipIf_onlyPc _, fun h => ?taken, fun h => ?other⟩
  case taken => simp [h]
  case other => simp [hother h]

/-- Settles O32: the next state is the one with PC written, and the written address keeps its value. -/
theorem jumpSetsPc : Obligations.JumpSetsPc := by
  intro addr s
  exact ⟨s.setPc (zextAddr addr), rfl, zextAddr_toNat addr, s.setPc_stack _, s.setPc_onlyPc _⟩

/-- Settles O36: each of the four is a skip on its comparison, of equality in the first and third, of inequality in the
second and fourth. -/
theorem compareSkipsAdvanceByTwoWhenTheComparisonHolds :
    Obligations.CompareSkipsAdvanceByTwoWhenTheComparisonHolds := by
  intro x y kk s
  refine ⟨?equalImm, ?notEqualImm, ?equalReg, ?notEqualReg⟩
  case equalImm => exact exec_skip_spec rfl id
  case notEqualImm => exact exec_skip_spec rfl not_not_intro
  case equalReg => exact exec_skip_spec rfl id
  case notEqualReg => exact exec_skip_spec rfl not_not_intro

end Sys2Proof.Machine
end

section
/-! Proofs of the memory-operations family (42_memory_ops.md): the plain loads of a register and of I. -/

namespace Sys2Proof.Machine

/-- Writing `V[x]` is a change of that register alone. -/
theorem State.setV_onlyRegisters (s : State) (x : Reg) (b : Byte) : OnlyRegisters [x] s (s.setV x b) := by
  refine ⟨fun r hr => ?others, s.setV_readByte x b, ?specials, ?signals, s.setV_pc x b⟩
  case others => exact s.getV_setV_other b fun h => hr (by simp [h])
  case specials => simp [SpecialsKept]
  case signals => simp [SignalsKept]

/-- Writing I keeps the registers, the memory, the display, the latch and the signals. -/
theorem State.setI_dataKept (s : State) (w : Word) : DataKept s (s.setI w) := by
  refine ⟨fun r _ => s.setI_getV w r, s.setI_readByte w, s.setI_display w, s.setI_fault w, ?signals⟩
  simp [SignalsKept]

/-- An instruction whose meaning is to write `b` to Vx completes, leaves `b` there and changes nothing else. -/
theorem exec_setV_spec {i : Instr} {s : State} {x : Reg} {b : Byte} (hexec : exec i s = .next (s.setV x b)) :
    ∃ t, exec i s = .next t ∧ t.getV x = b ∧ OnlyRegisters [x] s t :=
  ⟨_, hexec, s.getV_setV_same x b, s.setV_onlyRegisters x b⟩

/-- Settles O39: the first two are a write of one register, of the immediate or of Vy as it was before; the third is a write
of I, and zero extension keeps the value of the address. -/
theorem plainLoadsAssign : Obligations.PlainLoadsAssign := by
  intro x y kk addr s
  refine ⟨?regImm, ?regReg, ?address⟩
  case regImm => exact exec_setV_spec rfl
  case regReg => exact exec_setV_spec rfl
  case address =>
    exact ⟨s.setI (zextAddr addr), rfl, zextAddr_toNat addr, s.setI_dataKept _, s.setI_pc _, s.setI_dt _, s.setI_st _,
      s.setI_stack _⟩

end Sys2Proof.Machine
end

section
/-! Proofs of the display family (43_display.md): the clear. -/

namespace Sys2Proof.Machine

/-- A state whose display is the cleared one shows no pixel (R159). -/
theorem State.pixel_of_cleared {s : State} (h : s.display = clearDisplay) (r : Fin 32) (c : Nat) :
    s.pixel r c = false := by
  simp [State.pixel, h, clearDisplay]

/-- A host reset clears the display (R240). -/
@[simp] theorem hostReset_display (s : State) : (hostReset s).display = clearDisplay := rfl

/-- Settles O43: ClearScreen writes the cleared display and nothing else, and a host reset leaves the same display. -/
theorem clearScreenZeroesTheDisplay : Obligations.ClearScreenZeroesTheDisplay := by
  intro s
  refine ⟨⟨s.setDisplay clearDisplay, rfl, ?cleared, ?registers, ?memory, ?others⟩, ?reset⟩
  case cleared => exact State.pixel_of_cleared (s.setDisplay_display _)
  case registers => exact fun r _ => s.setDisplay_getV _ r
  case memory => exact s.setDisplay_readByte _
  case others => simp
  case reset => exact State.pixel_of_cleared (hostReset_display s)

end Sys2Proof.Machine
end

section
/-! Proofs of the logic family (45_logic.md): the three bitwise operations. -/

namespace Sys2Proof.Machine

/-- An instruction whose meaning is to write `b` to Vx completes, changes Vx alone, and leaves there the bits of `b`. -/
theorem exec_setV_bits {i : Instr} {s : State} {x : Reg} {b : Byte} {bit : Nat → Bool}
    (hexec : exec i s = .next (s.setV x b)) (hbit : ∀ k, b.getLsbD k = bit k) :
    ∃ t, exec i s = .next t ∧ OnlyRegisters [x] s t ∧ ∀ k, (t.getV x).getLsbD k = bit k := by
  obtain ⟨t, ht, rfl, honly⟩ := exec_setV_spec hexec
  exact ⟨t, ht, honly, hbit⟩

/-- Settles O49: each is a write of Vx alone, and a bit of the word written is the operation on the two old bits. -/
theorem bitwiseOperationsWriteVxOnly : Obligations.BitwiseOperationsWriteVxOnly := by
  intro x y s
  refine ⟨?or, ?and, ?xor⟩
  case or => exact exec_setV_bits rfl fun _ => BitVec.getLsbD_or
  case and => exact exec_setV_bits rfl fun _ => BitVec.getLsbD_and
  case xor => exact exec_setV_bits rfl fun _ => BitVec.getLsbD_xor

end Sys2Proof.Machine
end

section
/-! Proofs of the encoding family (30_encoding.md): the decoder, the encoder and the opcode table. -/

namespace Sys2Proof

/-- Settles O1: the fields of the encoded word are the operands and the fixed bits of its format, and on the fixed bits the
decoder selects the instruction's own variant. -/
theorem decodeOfEncodeIsTheInstruction : Obligations.DecodeOfEncodeIsTheInstruction := by
  intro i
  cases i with
  | clearScreen => decide
  | subroutineReturn => decide
  | _ => simp [encode, decode, decodeFamily8, decodeFamilyE, decodeFamilyF]

/-! ## An opcode whose fixed fields are known is in its format -/

theorem formatAddr_of_family {op : Word} {f : BitVec 4} (h : fieldFamily op = f) : formatAddr f (fieldAddr op) = op :=
  h ▸ formatAddr_fields op

theorem formatXKK_of_family {op : Word} {f : BitVec 4} (h : fieldFamily op = f) :
    formatXKK f (fieldX op) (fieldKK op) = op :=
  h ▸ formatXKK_fields op

theorem formatXKK_of_fields {op : Word} {f : BitVec 4} {kk : Byte} (h : fieldFamily op = f) (hkk : fieldKK op = kk) :
    formatXKK f (fieldX op) kk = op :=
  hkk ▸ formatXKK_of_family h

theorem formatXYN_of_fields {op : Word} {f n : BitVec 4} (h : fieldFamily op = f) (hn : fieldSub op = n) :
    formatXYN f (fieldX op) (fieldY op) n = op := by
  subst h hn
  exact formatXYN_fields op

/-! ## Everything the decoder can answer -/

/-- The reserved encodings of R79, family by family. -/
def Reserved (op : Word) : Prop :=
  (fieldFamily op = 0x0#4 ∧ op ≠ 0x00E0#16 ∧ op ≠ 0x00EE#16) ∨
  (fieldFamily op = 0x5#4 ∧ fieldSub op ≠ 0x0#4) ∨
  (fieldFamily op = 0x8#4 ∧ fieldSub op ∈ [0x8#4, 0x9#4, 0xA#4, 0xB#4, 0xC#4, 0xD#4, 0xF#4]) ∨
  (fieldFamily op = 0x9#4 ∧ fieldSub op ≠ 0x0#4) ∨
  (fieldFamily op = 0xE#4 ∧ fieldKK op ∉ [0x9E#8, 0xA1#8]) ∨
  (fieldFamily op = 0xF#4 ∧
    fieldKK op ∉ [0x07#8, 0x0A#8, 0x15#8, 0x18#8, 0x1E#8, 0x29#8, 0x33#8, 0x55#8, 0x65#8])

/-- An answer the decoder may give for `op`: an instruction whose word is `op`, or, on a reserved encoding, the failure. -/
inductive DecodesTo (op : Word) : Decoded → Prop where
  | instr (i : Instr) (h : encode i = op) : DecodesTo op (.instr i)
  | failure (h : Reserved op) : DecodesTo op (.failure op)

/-- The family nibble that the decoder's last case leaves. -/
theorem family_eq_F : ∀ f : BitVec 4, f ∉ [0, 1, 2, 3, 4, 5, 6, 7, 8, 9, 10, 11, 12, 13, 14] → f = 0xF#4 := by decide

/-- The low nibbles of family 8 that select no member. -/
theorem sub8_reserved : ∀ n : BitVec 4, n ∉ [0, 1, 2, 3, 4, 5, 6, 7, 14] →
    n ∈ [0x8#4, 0x9#4, 0xA#4, 0xB#4, 0xC#4, 0xD#4, 0xF#4] := by decide

/-- In family 8 the low nibble selects a member or is reserved. -/
theorem decodeFamily8_decodesTo {op : Word} (h : fieldFamily op = 0x8#4) : DecodesTo op (decodeFamily8 op) := by
  unfold decodeFamily8
  split
  case h_10 => exact .failure (.inr (.inr (.inl ⟨h, sub8_reserved _ (by simp_all)⟩)))
  all_goals exact .instr _ (formatXYN_of_fields h ‹_›)

/-- In family E the second byte selects a member or is reserved. -/
theorem decodeFamilyE_decodesTo {op : Word} (h : fieldFamily op = 0xE#4) : DecodesTo op (decodeFamilyE op) := by
  unfold decodeFamilyE
  split
  case h_3 => exact .failure (.inr (.inr (.inr (.inr (.inl ⟨h, by simp_all⟩)))))
  all_goals exact .instr _ (formatXKK_of_fields h ‹_›)

/-- In family F the second byte selects a member or is reserved. -/
theorem decodeFamilyF_decodesTo {op : Word} (h : fieldFamily op = 0xF#4) : DecodesTo op (decodeFamilyF op) := by
  unfold decodeFamilyF
  split
  case h_10 => exact .failure (.inr (.inr (.inr (.inr (.inr ⟨h, by simp_all⟩)))))
  all_goals exact .instr _ (formatXKK_of_fields h ‹_›)

/-- A family with one member, whose low nibble is 0: families 5 and 9. -/
theorem decodesTo_of_sub {op : Word} {i : Instr} (hi : fieldSub op = 0x0#4 → encode i = op)
    (hr : fieldSub op ≠ 0x0#4 → Reserved op) :
    DecodesTo op (if fieldSub op = 0x0#4 then .instr i else .failure op) := by
  split
  · next h => exact .instr i (hi h)
  · next h => exact .failure (hr h)

/-- In family 0 two opcodes are instructions and the others are reserved. -/
theorem decodesTo_of_family0 {op : Word} (h : fieldFamily op = 0x0#4) :
    DecodesTo op (if op = 0x00E0#16 then .instr .clearScreen
      else if op = 0x00EE#16 then .instr .subroutineReturn else .failure op) := by
  split
  · next hop => exact .instr _ hop.symm
  · split
    · next hop => exact .instr _ hop.symm
    · exact .failure (.inl ⟨h, ‹_›, ‹_›⟩)

/-- The decoder answers so on every opcode; the cases are the family nibbles 0 to F. -/
theorem decode_decodesTo (op : Word) : DecodesTo op (decode op) := by
  unfold decode
  split
  · next h => exact decodesTo_of_family0 h
  · next h => exact .instr _ (formatAddr_of_family h)
  · next h => exact .instr _ (formatAddr_of_family h)
  · next h => exact .instr _ (formatXKK_of_family h)
  · next h => exact .instr _ (formatXKK_of_family h)
  · next h => exact decodesTo_of_sub (formatXYN_of_fields h) fun hn => .inr (.inl ⟨h, hn⟩)
  · next h => exact .instr _ (formatXKK_of_family h)
  · next h => exact .instr _ (formatXKK_of_family h)
  · next h => exact decodeFamily8_decodesTo h
  · next h => exact decodesTo_of_sub (formatXYN_of_fields h) fun hn => .inr (.inr (.inr (.inl ⟨h, hn⟩)))
  · next h => exact .instr _ (formatAddr_of_family h)
  · next h => exact .instr _ (formatAddr_of_family h)
  · next h => exact .instr _ (formatXKK_of_family h)
  · next h => exact .instr _ (formatXYN_of_fields h rfl)
  · next h => exact decodeFamilyE_decodesTo h
  · exact decodeFamilyF_decodesTo (family_eq_F _ (by simp_all))

/-- The decoder answers an instruction, or the failure that carries the opcode (R73, R78). -/
theorem decode_instr_or_failure (op : Word) : (∃ i, decode op = .instr i) ∨ decode op = .failure op := by
  cases hd : decode op with
  | instr i => exact .inl ⟨i, rfl⟩
  | failure bad => rw [decode_failure hd]; exact .inr rfl

/-- A reserved encoding decodes to the failure: no instruction's word is reserved. -/
theorem decode_of_reserved {op : Word} (h : Reserved op) : decode op = .failure op := by
  rcases h with ⟨hf, h1, h2⟩ | ⟨hf, hs⟩ | ⟨hf, hs⟩ | ⟨hf, hs⟩ | ⟨hf, hk⟩ | ⟨hf, hk⟩
  · simp [decode, hf, h1, h2]
  · simp [decode, hf, hs]
  · simp only [decode, hf]
    simp only [List.mem_cons, List.not_mem_nil] at hs
    rcases hs with hs | hs | hs | hs | hs | hs | hs | hs <;> simp [decodeFamily8, hs]
  · simp [decode, hf, hs]
  · simp at hk
    simp [decode, decodeFamilyE, hf, hk]
  · simp at hk
    simp [decode, decodeFamilyF, hf, hk]

/-- Settles O2: every instruction the decoder answers for an opcode has that opcode as its word. -/
theorem encodeOfDecodeIsTheOpcode : Obligations.EncodeOfDecodeIsTheOpcode := by
  intro op i h
  have hd := decode_decodesTo op
  rw [h] at hd
  cases hd with
  | instr i hi => exact hi

/-- Settles O4: the decoder fails on reserved encodings only, and on each of them. -/
theorem illegalEncodingsAreExactlyThoseListed : Obligations.IllegalEncodingsAreExactlyThoseListed := by
  intro op
  refine ⟨fun h => ?_, decode_of_reserved⟩
  have hd := decode_decodesTo op
  rw [h] at hd
  cases hd with
  | failure hr => exact hr

/-! ## The opcode table (R76) -/

/-- A mask of four ones keeps a nibble. -/
@[simp] theorem nibble_and_ones (b : BitVec 4) : b &&& 0xF#4 = b := BitVec.and_allOnes

/-- A mask of eight ones keeps a byte. -/
@[simp] theorem byte_and_ones (b : Byte) : b &&& 0xFF#8 = b := BitVec.and_allOnes

/-- An opcode that selects a row agrees with the row's pattern in every field, under the field's part of the mask. -/
theorem OpcodeRow.fields_of_selectedBy {row : OpcodeRow} {op : Word} (h : row.selectedBy op = true) :
    fieldFamily op &&& fieldFamily row.mask = fieldFamily row.pattern ∧
      fieldSub op &&& fieldSub row.mask = fieldSub row.pattern ∧
      fieldKK op &&& fieldKK row.mask = fieldKK row.pattern := by
  have hbits : op &&& row.mask = row.pattern := by simpa [OpcodeRow.selectedBy] using h
  simp only [← hbits, fieldFamily, fieldSub, fieldKK, BitVec.extractLsb'_and, and_self]

/-- An opcode that selects a row with a mask of sixteen ones is the row's pattern. -/
theorem opcode_of_full_mask {row : OpcodeRow} {op : Word} (hmask : row.mask = 0xFFFF#16) (h : row.selectedBy op = true) :
    op = row.pattern := by
  have hbits := eq_of_beq h
  rwa [hmask, show op &&& 0xFFFF#16 = op from BitVec.and_allOnes] at hbits

/-- An opcode that selects a row decodes to the row's variant: the first two rows fix the whole opcode, the others the fields on
which the decoder branches. -/
theorem decode_of_selectedBy {row : OpcodeRow} {op : Word} (hrow : row ∈ opcodeTable) (h : row.selectedBy op = true) :
    ∃ i, decode op = .instr i ∧ i.mnemonic = row.mnemonic := by
  obtain ⟨hf, hs, hk⟩ := row.fields_of_selectedBy h
  fin_cases hrow
  · obtain rfl := opcode_of_full_mask rfl h
    exact ⟨.clearScreen, rfl, rfl⟩
  · obtain rfl := opcode_of_full_mask rfl h
    exact ⟨.subroutineReturn, rfl, rfl⟩
  all_goals
    simp only [fieldFamily, fieldSub, fieldKK, BitVec.reduceExtractLsb', nibble_and_ones, byte_and_ones] at hf hs hk
    simp [decode, decodeFamily8, decodeFamilyE, decodeFamilyF, fieldFamily, fieldSub, fieldKK, hf, hs, hk,
      Instr.mnemonic]

/-- The variants of the table's rows are pairwise different. -/
theorem opcodeTable_row_unique : ∀ r ∈ opcodeTable, ∀ q ∈ opcodeTable, r.mnemonic = q.mnemonic → r = q := by decide

/-- Every instruction's word selects the row of the instruction's variant, and its assembly line is well formed. -/
theorem Laws.selectsItsRow : ∀ i : Instr, SelectsItsRow.Statement i
  | .clearScreen => SelectsItsRow.clearScreen
  | .subroutineReturn => SelectsItsRow.subroutineReturn
  | .jump addr => SelectsItsRow.jump addr
  | .subroutineCall addr => SelectsItsRow.subroutineCall addr
  | .skipIfEqualImm x kk => SelectsItsRow.skipIfEqualImm x kk
  | .skipIfNotEqualImm x kk => SelectsItsRow.skipIfNotEqualImm x kk
  | .skipIfEqualReg x y => SelectsItsRow.skipIfEqualReg x y
  | .loadRegImm x kk => SelectsItsRow.loadRegImm x kk
  | .addImm x kk => SelectsItsRow.addImm x kk
  | .loadRegReg x y => SelectsItsRow.loadRegReg x y
  | .orReg x y => SelectsItsRow.orReg x y
  | .andReg x y => SelectsItsRow.andReg x y
  | .xorReg x y => SelectsItsRow.xorReg x y
  | .addReg x y => SelectsItsRow.addReg x y
  | .subtractReg x y => SelectsItsRow.subtractReg x y
  | .shiftRight x y => SelectsItsRow.shiftRight x y
  | .subtractRegReverse x y => SelectsItsRow.subtractRegReverse x y
  | .shiftLeft x y => SelectsItsRow.shiftLeft x y
  | .skipIfNotEqualReg x y => SelectsItsRow.skipIfNotEqualReg x y
  | .loadAddress addr => SelectsItsRow.loadAddress addr
  | .jumpOffset addr => SelectsItsRow.jumpOffset addr
  | .random x kk => SelectsItsRow.random x kk
  | .draw x y n => SelectsItsRow.draw x y n
  | .skipIfKeyPressed x => SelectsItsRow.skipIfKeyPressed x
  | .skipIfKeyNotPressed x => SelectsItsRow.skipIfKeyNotPressed x
  | .loadRegDelay x => SelectsItsRow.loadRegDelay x
  | .waitKey x => SelectsItsRow.waitKey x
  | .loadDelayReg x => SelectsItsRow.loadDelayReg x
  | .loadSoundReg x => SelectsItsRow.loadSoundReg x
  | .addAddress x => SelectsItsRow.addAddress x
  | .loadDigitSprite x => SelectsItsRow.loadDigitSprite x
  | .storeBcd x => SelectsItsRow.storeBcd x
  | .loadMemoryRegisters x => SelectsItsRow.loadMemoryRegisters x
  | .loadRegistersMemory x => SelectsItsRow.loadRegistersMemory x

/-- An instruction's word selects the row of the instruction's variant. -/
theorem encode_selects_row (i : Instr) :
    ∃ row ∈ opcodeTable, row.mnemonic = i.mnemonic ∧ row.selectedBy (encode i) = true :=
  (Laws.selectsItsRow i).1

/-- A row selects an opcode exactly when the decoder gives the row's variant. -/
theorem selectedBy_iff_decode {row : OpcodeRow} (hrow : row ∈ opcodeTable) (op : Word) :
    row.selectedBy op = true ↔ ∃ i, decode op = .instr i ∧ i.mnemonic = row.mnemonic := by
  refine ⟨decode_of_selectedBy hrow, ?_⟩
  rintro ⟨i, hd, hm⟩
  obtain ⟨own, hown, hname, hsel⟩ := encode_selects_row i
  rw [encodeOfDecodeIsTheOpcode op i hd] at hsel
  rwa [opcodeTable_row_unique row hrow own hown (hm.symm.trans hname.symm)]

/-- The decoder fails on an opcode exactly when it selects no row. -/
theorem decode_failure_iff_unselected (op : Word) :
    decode op = .failure op ↔ ∀ row ∈ opcodeTable, row.selectedBy op = false := by
  constructor
  · intro hd row hrow
    rw [Bool.eq_false_iff]
    intro hsel
    obtain ⟨i, hi, -⟩ := decode_of_selectedBy hrow hsel
    simp [hd] at hi
  · intro hno
    rcases decode_instr_or_failure op with ⟨i, hi⟩ | hd
    · obtain ⟨row, hrow, -, hsel⟩ := encode_selects_row i
      rw [encodeOfDecodeIsTheOpcode op i hi, hno row hrow] at hsel
      exact absurd hsel Bool.false_ne_true
    · exact hd

/-- Settles O3: the row of an instruction's word is the only one of the instruction's variant, and a row's pattern fixes the
fields on which the decoder branches. -/
theorem decodeAgreesWithTheOpcodeTable : Obligations.DecodeAgreesWithTheOpcodeTable := fun op =>
  ⟨fun _ hrow => selectedBy_iff_decode hrow op, decode_instr_or_failure op, decode_failure_iff_unselected op⟩

/-- Settles O5: the decoder evaluated on each word. -/
theorem specWordsDecodeAsListed : Obligations.SpecWordsDecodeAsListed := by
  unfold Obligations.SpecWordsDecodeAsListed
  decide

end Sys2Proof
end

section
/-! Proofs of the encoding family (30_encoding.md section 6): assembly lines. Each operand format is treated once, for any
constructor of the format; an instruction is then its format. -/

namespace Sys2Proof

/-! ## One operand -/

@[simp] theorem toReg_regOperand (r : Reg) : (regOperand r).toReg = some r := by
  simp [regOperand, AsmOperand.toReg]

@[simp] theorem toNibble_num (n : Nibble) : (AsmOperand.num n.val).toNibble = some n := by
  simp [AsmOperand.toNibble]

@[simp] theorem toByte_num (b : Byte) : (AsmOperand.num b.toNat).toByte = some b := by
  simpa [AsmOperand.toByte] using b.isLt

@[simp] theorem toAddr_num (a : Addr12) : (AsmOperand.num a.toNat).toAddr = some a := by
  simpa [AsmOperand.toAddr] using a.isLt

/-- An operand is read as a register exactly when it fits a register field. -/
@[simp] theorem toReg_isSome (o : AsmOperand) : o.toReg.isSome = OperandKind.reg.admits o := by
  cases o with
  | reg r => by_cases h : r < 16 <;> simp [AsmOperand.toReg, OperandKind.admits, h]
  | num v => rfl

@[simp] theorem toNibble_isSome (o : AsmOperand) : o.toNibble.isSome = OperandKind.count4.admits o := by
  cases o with
  | reg r => rfl
  | num v => by_cases h : v < 16 <;> simp [AsmOperand.toNibble, OperandKind.admits, h]

@[simp] theorem toByte_isSome (o : AsmOperand) : o.toByte.isSome = OperandKind.imm8.admits o := by
  cases o with
  | reg r => rfl
  | num v => by_cases h : v < 256 <;> simp [AsmOperand.toByte, OperandKind.admits, h]

@[simp] theorem toAddr_isSome (o : AsmOperand) : o.toAddr.isSome = OperandKind.addr12.admits o := by
  cases o with
  | reg r => rfl
  | num v => by_cases h : v < 4096 <;> simp [AsmOperand.toAddr, OperandKind.admits, h]

/-! ## Reading back the operands a format writes -/

@[simp] theorem asmFixed_operands (i : Instr) : asmFixed i [] = some i := rfl

@[simp] theorem asmAddr_operands (c : Addr12 → Instr) (a : Addr12) : asmAddr c [.num a.toNat] = some (c a) := by
  simp [asmAddr]

@[simp] theorem asmXKK_operands (c : Reg → Byte → Instr) (x : Reg) (kk : Byte) :
    asmXKK c [regOperand x, .num kk.toNat] = some (c x kk) := by
  simp [asmXKK]

@[simp] theorem asmXY_operands (c : Reg → Reg → Instr) (x y : Reg) :
    asmXY c [regOperand x, regOperand y] = some (c x y) := by
  simp [asmXY]

/-- The unwritten `Vy` of a shift is read back as V0 (R85). -/
@[simp] theorem asmShift_operands (c : Reg → Reg → Instr) (x y : Reg) :
    asmShift c (shiftOperands x y) = some (c x y) := by
  by_cases h : y = 0 <;> simp [shiftOperands, asmShift, h]

@[simp] theorem asmXYN_operands (c : Reg → Reg → Nibble → Instr) (x y : Reg) (n : Nibble) :
    asmXYN c [regOperand x, regOperand y, .num n.val] = some (c x y n) := by
  simp [asmXYN]

@[simp] theorem asmX_operands (c : Reg → Instr) (x : Reg) : asmX c [regOperand x] = some (c x) := by
  simp [asmX]

/-- Settles O6: the line names the instruction's own variant, whose format reads back the operands written. -/
theorem assembleOfDisassembleIsTheInstruction : Obligations.AssembleOfDisassembleIsTheInstruction := by
  intro i
  cases i <;> simp [disassemble, assemble, Instr.mnemonic, Instr.operands]

/-! ## The operand lists a format accepts -/

/-- A value built from two readings is there when both readings are. -/
theorem isSome_bind_map {α β γ : Type} (a : Option α) (b : Option β) (c : α → β → γ) :
    (a.bind fun x => b.map (c x)).isSome = (a.isSome && b.isSome) := by
  cases a <;> simp

@[simp] theorem asmFixed_isSome (i : Instr) (ops : List AsmOperand) : (asmFixed i ops).isSome = formAdmits [] ops := by
  cases ops <;> rfl

@[simp] theorem asmAddr_isSome (c : Addr12 → Instr) (ops : List AsmOperand) :
    (asmAddr c ops).isSome = formAdmits [.addr12] ops := by
  match ops with
  | [] => rfl
  | [a] => simp [asmAddr, formAdmits]
  | _ :: _ :: _ => simp [asmAddr, formAdmits]

@[simp] theorem asmX_isSome (c : Reg → Instr) (ops : List AsmOperand) :
    (asmX c ops).isSome = formAdmits [.reg] ops := by
  match ops with
  | [] => rfl
  | [x] => simp [asmX, formAdmits]
  | _ :: _ :: _ => simp [asmX, formAdmits]

@[simp] theorem asmXKK_isSome (c : Reg → Byte → Instr) (ops : List AsmOperand) :
    (asmXKK c ops).isSome = formAdmits [.reg, .imm8] ops := by
  match ops with
  | [] => rfl
  | [_] => simp [asmXKK, formAdmits]
  | [x, kk] => simp [asmXKK, formAdmits, isSome_bind_map]
  | _ :: _ :: _ :: _ => simp [asmXKK, formAdmits]

@[simp] theorem asmXY_isSome (c : Reg → Reg → Instr) (ops : List AsmOperand) :
    (asmXY c ops).isSome = formAdmits [.reg, .reg] ops := by
  match ops with
  | [] => rfl
  | [_] => simp [asmXY, formAdmits]
  | [x, y] => simp [asmXY, formAdmits, isSome_bind_map]
  | _ :: _ :: _ :: _ => simp [asmXY, formAdmits]

@[simp] theorem asmXYN_isSome (c : Reg → Reg → Nibble → Instr) (ops : List AsmOperand) :
    (asmXYN c ops).isSome = formAdmits [.reg, .reg, .count4] ops := by
  match ops with
  | [] => rfl
  | [_] => simp [asmXYN, formAdmits]
  | [_, _] => simp [asmXYN, formAdmits]
  | [x, y, n] =>
    rw [asmXYN]
    cases hx : x.toReg <;> simp [formAdmits, isSome_bind_map, ← toReg_isSome, hx]
  | _ :: _ :: _ :: _ :: _ => simp [asmXYN, formAdmits]

/-- A shift is written with one register or with two (R82, R85). -/
@[simp] theorem asmShift_isSome (c : Reg → Reg → Instr) (ops : List AsmOperand) :
    (asmShift c ops).isSome = (formAdmits [.reg] ops || formAdmits [.reg, .reg] ops) := by
  match ops with
  | [] => rfl
  | [x] => simp [asmShift, formAdmits]
  | _ :: _ :: _ => simp [asmShift, formAdmits]

/-- Settles O7: each variant's format accepts exactly the operand lists of the variant's forms. -/
theorem assemblerAcceptsExactlyWellFormedLines : Obligations.AssemblerAcceptsExactlyWellFormedLines := by
  rintro ⟨m, ops⟩
  cases m <;> simp [assemble, AsmLine.wf, Mnemonic.forms]

end Sys2Proof
end

section
/-! What a completed instruction may have changed, and why an instruction or a step may fault, said once for all 34
instructions; the proofs of the sequencer and frame statements start from here. -/

namespace Sys2Proof.Machine

/-! ## What an instruction does -/

/-- The values an instruction other than a call or a return from a live entry gives PC: a target address (at most the 0x10FE
of JumpOffset, R27), RET_EMPTY_PC, or PC moved by a skip or by WaitKey. -/
inductive NextPc (s : State) : Word → Prop where
  | target (w : Word) (h : w.toNat ≤ 0x10FE) : NextPc s w
  | fallback : NextPc s s.params.retEmptyPc
  | here : NextPc s s.pc
  | skip : NextPc s (s.pc + 2)
  | back : NextPc s (s.pc - 2)

/-- The states an instruction may answer, by the kind of write it performs. -/
inductive Effect (s : State) : Instr → State → Prop where
  | setsPc {i : Instr} (w : Word) (hw : NextPc s w) (hflag : i.writesFlag = false) : Effect s i (s.setPc w)
  | setsReg {i : Instr} {x : Reg} (b : Byte) (hdst : i.namedDests = [x]) (hflag : i.writesFlag = false) :
      Effect s i (s.setV x b)
  | setsFlagAndReg {i : Instr} {x : Reg} (p q : Reg) (a b : Byte) (hdst : i.namedDests = [x]) (hflag : i.writesFlag = true)
      (hpq : p = x ∧ q = VF ∨ p = VF ∧ q = x) : Effect s i ((s.setV p a).setV q b)
  | setsI {i : Instr} (w : Word) (hflag : i.writesFlag = false) (hflow : i.isControlFlow = false) : Effect s i (s.setI w)
  | setsDt (x : Reg) : Effect s (.loadDelayReg x) (s.setDt (s.getV x))
  | setsSt (x : Reg) : Effect s (.loadSoundReg x) (s.setSt (s.getV x))
  | clears : Effect s .clearScreen (s.setDisplay clearDisplay)
  | draws {x y : Reg} {n : Nibble} (d : Vector Row 32) (b : Byte) :
      Effect s (.draw x y n) (((s.setDisplay d).setV VF b).setFlush true)
  | calls (addr : Addr12) (hroom : s.sp < s.params.stackDepth) :
      Effect s (.subroutineCall addr) ((s.setStack (s.stack ++ [s.pc])).setPc (zextAddr addr))
  | returns (l : List Word) (w : Word) (htop : s.stack = l ++ [w]) : Effect s .subroutineReturn ((s.setStack l).setPc w)
  | stores {i : Instr} (m : Memory) (hi : (∃ x, i = .loadMemoryRegisters x) ∨ ∃ x, i = .storeBcd x)
      (hm : s.mem.wf → m.wf) : Effect s i (s.setMem m)
  | loads (x : Reg) (v : Vector Byte 16) (hv : ∀ r : Reg, x < r → v[r] = s.getV r) :
      Effect s (.loadRegistersMemory x) { s with v := v }

/-- Why an instruction may fault (R214, R215, R217). -/
inductive FaultCause (s : State) : FaultRecord → Prop where
  | outOfRange (addr len : Nat) (hlen : 1 ≤ len) (hend : 4096 < addr + len) : FaultCause s (.addressOutOfRange addr len)
  | stackFull (h : s.params.stackDepth ≤ s.sp) : FaultCause s (.stackOverflow s.pc)
  | pastBottom (y0 n : Nat) (hset : s.params.drawBottom = .fault) (hn : 1 ≤ n) (hend : 32 < y0 + n) :
      FaultCause s (.displayRowOutOfRange y0 n)

/-- An instruction completes with one of its effects, or faults on the state as it was. -/
inductive Does (s : State) (i : Instr) : Result → Prop where
  | completes {t : State} (h : Effect s i t) : Does s i (.next t)
  | faults {r : FaultRecord} (h : FaultCause s r) : Does s i (raise r s)

/-- A skip moves PC or leaves it. -/
theorem skipIf_does {s : State} {i : Instr} (c : Bool) (hflag : i.writesFlag = false) :
    Does s i (.next (s.skipIf c)) := by
  cases c with
  | false => exact .completes (.setsPc s.pc .here hflag)
  | true => exact .completes (.setsPc _ .skip hflag)

/-- The store at I replaces the memory by a canonical one, or faults. -/
theorem storeAtI_does {s : State} {i : Instr} (bs : List Byte)
    (hi : (∃ x, i = .loadMemoryRegisters x) ∨ ∃ x, i = .storeBcd x) : Does s i (storeAtI bs s) := by
  rcases storeAtI_cases bs s with ⟨hin, h⟩ | ⟨hne, hend, h⟩ <;> rw [h]
  · refine .completes (.stores _ hi fun hm => ?_)
    rcases hin with rfl | hin
    · exact hm
    · exact Memory.wf_writeAll hin hm
  · exact .faults (.outOfRange _ _ (List.length_pos_iff.mpr hne) hend)

/-- Draw replaces the display and VF and sets the flush output, or faults. -/
theorem execDraw_does (x y : Reg) (n : Nibble) (s : State) : Does s (.draw x y n) (execDraw x y n s) := by
  unfold execDraw
  rcases memRead_cases s.mem s.i.toNat n.val with ⟨-, h⟩ | ⟨hn, hend, h⟩ <;> rw [h] <;> dsimp only
  · split
    · next hb =>
      obtain ⟨hset, hpast⟩ := hb
      obtain ⟨hn, hend⟩ := (passesBottom_iff _ _).mp hpast
      exact .faults (.pastBottom _ _ hset hn hend)
    · exact .completes (.draws _ _)
  · exact .faults (.outOfRange _ _ (by omega) hend)

/-- The load from I replaces registers up to Vx, or faults. -/
theorem execLoadRegistersMemory_does (x : Reg) (s : State) :
    Does s (.loadRegistersMemory x) (execLoadRegistersMemory x s) := by
  unfold execLoadRegistersMemory
  rcases memRead_cases s.mem s.i.toNat (x.val + 1) with ⟨-, h⟩ | ⟨-, hend, h⟩ <;> rw [h] <;> dsimp only
  · rw [State.setVFrom_frame]
    refine .completes (.loads x _ fun r hr => ?_)
    have hval := s.setVFrom_getV 0 ((List.range (x.val + 1)).map fun k => s.mem.read (s.i.toNat + k)) r
    rw [dif_neg (by simp; omega)] at hval
    exact hval
  · exact .faults (.outOfRange _ _ (by omega) hend)

/-- JumpOffset reaches at most 0x10FE, without wrapping (R128). -/
theorem jumpOffset_toNat (addr : Addr12) (b : Byte) : (zextAddr addr + zextByte b).toNat = addr.toNat + b.toNat := by
  have ha := addr.isLt
  have hb := b.isLt
  simp [zextByte, BitVec.toNat_add]
  omega

/-- Every instruction does so, on every state. -/
theorem exec_does (i : Instr) (s : State) : Does s i (exec i s) := by
  cases i with
  | clearScreen => exact .completes .clears
  | subroutineReturn =>
    rcases s.pop_cases with ⟨-, h⟩ | ⟨l, w, htop, h⟩ <;> simp only [exec, execSubroutineReturn, h]
    · exact .completes (.setsPc _ .fallback rfl)
    · exact .completes (.returns l w htop)
  | jump addr => exact .completes (.setsPc _ (.target _ (by simp; omega)) rfl)
  | subroutineCall addr =>
    rcases s.push_cases s.pc with ⟨hroom, h⟩ | ⟨hfull, h⟩ <;> simp only [exec, execSubroutineCall, h]
    · exact .completes (.calls addr hroom)
    · exact .faults (.stackFull hfull)
  | jumpOffset addr =>
    refine .completes (.setsPc _ (.target _ ?_) rfl)
    rw [jumpOffset_toNat]
    omega
  | skipIfEqualImm x kk => exact skipIf_does _ rfl
  | skipIfNotEqualImm x kk => exact skipIf_does _ rfl
  | skipIfEqualReg x y => exact skipIf_does _ rfl
  | skipIfNotEqualReg x y => exact skipIf_does _ rfl
  | skipIfKeyPressed x => exact skipIf_does _ rfl
  | skipIfKeyNotPressed x => exact skipIf_does _ rfl
  | waitKey x =>
    simp only [exec, execWaitKey]
    split
    · exact .completes (.setsReg _ rfl rfl)
    · exact .completes (.setsPc _ .back rfl)
  | loadRegImm x kk => exact .completes (.setsReg _ rfl rfl)
  | loadRegReg x y => exact .completes (.setsReg _ rfl rfl)
  | orReg x y => exact .completes (.setsReg _ rfl rfl)
  | andReg x y => exact .completes (.setsReg _ rfl rfl)
  | xorReg x y => exact .completes (.setsReg _ rfl rfl)
  | random x kk => exact .completes (.setsReg _ rfl rfl)
  | loadRegDelay x => exact .completes (.setsReg _ rfl rfl)
  | addImm x kk => exact .completes (.setsFlagAndReg _ _ _ _ rfl rfl (.inl ⟨rfl, rfl⟩))
  | addReg x y => exact .completes (.setsFlagAndReg _ _ _ _ rfl rfl (.inl ⟨rfl, rfl⟩))
  | subtractReg x y => exact .completes (.setsFlagAndReg _ _ _ _ rfl rfl (.inr ⟨rfl, rfl⟩))
  | subtractRegReverse x y => exact .completes (.setsFlagAndReg _ _ _ _ rfl rfl (.inr ⟨rfl, rfl⟩))
  | shiftRight x y => exact .completes (.setsFlagAndReg _ _ _ _ rfl rfl (.inr ⟨rfl, rfl⟩))
  | shiftLeft x y => exact .completes (.setsFlagAndReg _ _ _ _ rfl rfl (.inr ⟨rfl, rfl⟩))
  | loadAddress addr => exact .completes (.setsI _ rfl rfl)
  | addAddress x => exact .completes (.setsI _ rfl rfl)
  | loadDigitSprite x => exact .completes (.setsI _ rfl rfl)
  | loadDelayReg x => exact .completes (.setsDt x)
  | loadSoundReg x => exact .completes (.setsSt x)
  | draw x y n => exact execDraw_does x y n s
  | storeBcd x => exact storeAtI_does _ (.inr ⟨x, rfl⟩)
  | loadMemoryRegisters x => exact storeAtI_does _ (.inl ⟨x, rfl⟩)
  | loadRegistersMemory x => exact execLoadRegistersMemory_does x s

/-- An instruction that answers a next state left one of its effects. -/
theorem effect_of_next {i : Instr} {s t : State} (h : exec i s = .next t) : Effect s i t := by
  have hd := exec_does i s
  rw [h] at hd
  cases hd with
  | completes he => exact he

/-- An instruction that faults had a cause, and latched the record on the state as it was. -/
theorem cause_of_fault {i : Instr} {s t : State} {r : FaultRecord} (h : exec i s = .fault (.raised r t)) :
    FaultCause s r ∧ t = s.latch r := by
  have hd := exec_does i s
  generalize exec i s = o at h hd
  cases hd with
  | completes he => cases h
  | faults hc =>
    cases h
    exact ⟨hc, rfl⟩

/-! ## What an effect leaves alone -/

section
variable {s t : State} {i : Instr}

theorem Effect.dt_eq (h : Effect s i t) (hi : ∀ x, i ≠ .loadDelayReg x) : t.dt = s.dt := by
  cases h with
  | setsDt x => exact absurd rfl (hi x)
  | _ => rfl

theorem Effect.st_eq (h : Effect s i t) (hi : ∀ x, i ≠ .loadSoundReg x) : t.st = s.st := by
  cases h with
  | setsSt x => exact absurd rfl (hi x)
  | _ => rfl

theorem Effect.mem_eq (h : Effect s i t) (hregs : ∀ x, i ≠ .loadMemoryRegisters x) (hbcd : ∀ x, i ≠ .storeBcd x) :
    t.mem = s.mem := by
  cases h with
  | stores m hi =>
    rcases hi with ⟨x, rfl⟩ | ⟨x, rfl⟩
    · exact absurd rfl (hregs x)
    · exact absurd rfl (hbcd x)
  | _ => rfl

theorem Effect.display_eq (h : Effect s i t) (hclear : i ≠ .clearScreen) (hdraw : ∀ x y n, i ≠ .draw x y n) :
    t.display = s.display := by
  cases h with
  | clears => exact absurd rfl hclear
  | draws d b => exact absurd rfl (hdraw _ _ _)
  | _ => rfl

theorem Effect.stack_eq (h : Effect s i t) (hcall : ∀ a, i ≠ .subroutineCall a) (hret : i ≠ .subroutineReturn) :
    t.stack = s.stack := by
  cases h with
  | calls addr => exact absurd rfl (hcall addr)
  | returns => exact absurd rfl hret
  | _ => rfl

theorem Effect.flush_eq (h : Effect s i t) (hdraw : ∀ x y n, i ≠ .draw x y n) : t.flush = s.flush := by
  cases h with
  | draws d b => exact absurd rfl (hdraw _ _ _)
  | _ => rfl

theorem Effect.flush_of_draw {x y : Reg} {n : Nibble} (h : Effect s (.draw x y n) t) : t.flush = true := by
  cases h with
  | draws d b => rfl
  | setsPc w hw hflag => cases hflag
  | setsReg b hdst hflag => cases hflag
  | setsFlagAndReg p q a b hdst => cases hdst
  | setsI w hflag => cases hflag
  | stores m hi => rcases hi with ⟨x, hx⟩ | ⟨x, hx⟩ <;> cases hx

theorem Effect.getV_eq (h : Effect s i t) {r : Reg} (hdst : r ∉ i.namedDests) (hvf : r = VF → i.writesFlag = false) :
    t.getV r = s.getV r := by
  cases h with
  | @setsReg _ x b hi =>
    rw [hi, List.mem_singleton] at hdst
    exact s.getV_setV_other b (Ne.symm hdst)
  | setsFlagAndReg p q a b hi hflag hpq =>
    rw [hi, List.mem_singleton] at hdst
    have hne : r ≠ VF := fun hr => by simp [hvf hr] at hflag
    rcases hpq with ⟨rfl, rfl⟩ | ⟨rfl, rfl⟩ <;> simp [Ne.symm hdst, Ne.symm hne]
  | draws d b => exact State.getV_setV_other _ b fun hr => Bool.noConfusion (hvf hr.symm)
  | loads x v hv => exact hv r (by simpa [Instr.namedDests] using hdst)
  | _ => rfl

theorem Effect.input_eq (h : Effect s i t) : t.input = s.input := by
  cases h <;> rfl

end

end Sys2Proof.Machine
end

section
/-! Proofs of the sequencer family (40_sequencer.md, 60_exceptions.md): the phases of a step, its faults, and the invariant. -/

namespace Sys2Proof.Machine

/-! ## The state handed to the execute phase -/

theorem beginStep_timersTicked (s : State) : TimersTicked s (beginStep s) := by
  simp [TimersTicked]

theorem beginStep_blockKept (s : State) : BlockKept s (beginStep s) :=
  ⟨fun r _ => beginStep_getV s r, beginStep_readByte s, beginStep_i s, beginStep_stack s, beginStep_display s,
    beginStep_params s⟩

/-- The advance of PC does not wrap where a fetch succeeded (R27, R103). -/
theorem pc_add_two_toNat {w : Word} (h : w.toNat ≤ 4094) : (w + 2).toNat = w.toNat + 2 := by
  rw [BitVec.toNat_add]
  simp
  omega

theorem beginStep_advance_pc {s : State} (h : s.pc.toNat ≤ 4094) : (beginStep s).advance.pc.toNat = s.pc.toNat + 2 := by
  simpa using pc_add_two_toNat h

theorem beginStep_supplied {s : State} {now : StepInput} {rest : List StepInput} (h : s.pending = now :: rest) :
    (beginStep s).input = now ∧ (beginStep s).pending = rest ∧ (beginStep s).drawn = s.drawn := by
  have hp : (s.setFlush false).pending = now :: rest := h
  simp [beginStep, sampleInput_supplied hp]

theorem beginStep_free {s : State} (h : s.pending = []) :
    (beginStep s).input = Config.freeInput s.drawn ∧ (beginStep s).pending = [] ∧
      (beginStep s).drawn = s.drawn + 1 := by
  have hp : (s.setFlush false).pending = [] := h
  simp [beginStep, sampleInput_free hp, h]

/-- Settles O10: the advance changes PC only, and before it the phases change the timers, the flush output and the inputs. -/
theorem stateHandedToExecute : Obligations.StateHandedToExecute := fun s =>
  ⟨beginStep_advance_pc, beginStep_timersTicked s, beginStep_blockKept s, beginStep_fault s, beginStep_flush s,
    fun _ _ => beginStep_supplied, beginStep_free⟩

/-! ## Which case of the step applies -/

theorem step_of_latched {s : State} {r : FaultRecord} (h : s.fault = some r) : step s = .refused (.faultLatched r) := by
  simp [step, h]

theorem step_of_no_fetch {s : State} (hF : s.fault = none) (hpc : 4094 < s.pc.toNat) :
    step s = raise (.addressOutOfRange s.pc.toNat 2) (beginStep s) := by
  rcases fetchOpcode_cases s with ⟨hle, -⟩ | ⟨-, hf⟩
  · omega
  · simp [step, hF, hf]

theorem step_of_illegal {s : State} {op : Word} (hF : s.fault = none) (hf : fetchOpcode s = some op)
    (hd : decode op = .failure op) : step s = raise (.invalidInstruction op s.pc) (beginStep s).advance := by
  simp [step, hF, hf, hd]

theorem step_of_instr {s : State} {op : Word} {i : Instr} (hF : s.fault = none) (hf : fetchOpcode s = some op)
    (hd : decode op = .instr i) : step s = exec i (beginStep s).advance := by
  simp [step, hF, hf, hd]

/-- A fetch that answers had PC at most 4094 (R102). -/
theorem pc_le_of_fetch {s : State} {op : Word} (hf : fetchOpcode s = some op) : s.pc.toNat ≤ 4094 := by
  rcases fetchOpcode_cases s with ⟨hle, -⟩ | ⟨-, hnone⟩
  · exact hle
  · simp [hnone] at hf

theorem State.nextInstr_eq_some {s : State} {i : Instr} :
    s.nextInstr = some i ↔ ∃ op, fetchOpcode s = some op ∧ decode op = .instr i := by
  unfold State.nextInstr
  cases fetchOpcode s with
  | none => simp
  | some op => cases hd : decode op <;> simp [hd]

/-- A step at a next instruction executes it (R100, R105). -/
theorem step_of_nextInstr {s : State} {i : Instr} (hF : s.fault = none) (hn : s.nextInstr = some i) :
    step s = exec i (beginStep s).advance := by
  obtain ⟨op, hf, hd⟩ := State.nextInstr_eq_some.mp hn
  exact step_of_instr hF hf hd

/-- Settles O9: the fetch joins the two bytes at PC, so the step executes what they decode to. -/
theorem stepRunsTheDecodedInstruction : Obligations.StepRunsTheDecodedInstruction :=
  fun _ _ hF hpc hd => step_of_instr hF (fetchOpcode_of_pc_le hpc) hd

/-- Settles O13: the latch is looked at first. -/
theorem stepIsRefusedWhileAFaultIsLatched : Obligations.StepIsRefusedWhileAFaultIsLatched :=
  fun _ _ h => step_of_latched h

/-- Settles O11: the decode phase raises the fault on the advanced state. -/
theorem undecodableOpcodeFaults : Obligations.UndecodableOpcodeFaults := fun s _ hF hf hd =>
  ⟨_, step_of_illegal hF hf hd, rfl, beginStep_advance_pc (pc_le_of_fetch hf), beginStep_timersTicked s,
    beginStep_blockKept s⟩

/-- Settles O12: the fetch raises the fault before the advance. -/
theorem fetchOutOfRangeFaults : Obligations.FetchOutOfRangeFaults := fun s hF hpc =>
  ⟨_, step_of_no_fetch hF hpc, rfl, beginStep_pc s, beginStep_timersTicked s, beginStep_blockKept s⟩

/-! ## What a step that completes, or faults, has done -/

/-- A step that completes executed the next instruction, which left one of its effects (R100, R105). -/
theorem effect_of_step {s t : State} (h : step s = .next t) :
    ∃ i, s.nextInstr = some i ∧ s.pc.toNat ≤ 4094 ∧ Effect (beginStep s).advance i t := by
  have hd := step_does s
  generalize step s = o at h hd
  cases hd with
  | latched r => cases h
  | outOfRange => cases h
  | illegal op => cases h
  | executes op i hF hpc hf hd => exact ⟨i, State.nextInstr_eq_some.mpr ⟨op, hf, hd⟩, hpc, effect_of_next h⟩

/-- The record and the state of a faulting step: the fetch raised it, or the decode, or the execute phase (R216, R218). -/
inductive StepFaults (s : State) : FaultRecord → State → Prop where
  | fetch (hpc : 4094 < s.pc.toNat) :
      StepFaults s (.addressOutOfRange s.pc.toNat 2) ((beginStep s).latch (.addressOutOfRange s.pc.toNat 2))
  | decode (op : Word) (hf : fetchOpcode s = some op) (hd : decode op = .failure op) :
      StepFaults s (.invalidInstruction op s.pc) ((beginStep s).advance.latch (.invalidInstruction op s.pc))
  | execute (r : FaultRecord) (hpc : s.pc.toNat ≤ 4094) (hc : FaultCause (beginStep s).advance r) :
      StepFaults s r ((beginStep s).advance.latch r)

theorem stepFaults_of_fault {s t : State} {r : FaultRecord} (h : step s = .fault (.raised r t)) :
    s.fault = none ∧ StepFaults s r t := by
  have hd := step_does s
  generalize step s = o at h hd
  cases hd with
  | latched r => cases h
  | outOfRange hF hpc =>
    cases h
    exact ⟨hF, .fetch hpc⟩
  | illegal op hF hpc hf hd =>
    cases h
    exact ⟨hF, .decode op hf hd⟩
  | executes op i hF hpc hf hd =>
    obtain ⟨hc, rfl⟩ := cause_of_fault h
    exact ⟨hF, .execute r hpc hc⟩

/-- Settles O16: whichever phase raised the fault, the state is that of the phases before it with the record latched. -/
theorem faultingStepPerformsNoWriteOfTheInstruction : Obligations.FaultingStepPerformsNoWriteOfTheInstruction := by
  intro s t r h
  obtain ⟨hF, hs⟩ := stepFaults_of_fault h
  cases hs with
  | fetch hpc =>
    exact ⟨hF, rfl, beginStep_timersTicked s, beginStep_blockKept s, beginStep_flush s, .inl ⟨hpc, beginStep_pc s⟩⟩
  | decode op hf hd =>
    have hpc := pc_le_of_fetch hf
    exact ⟨hF, rfl, beginStep_timersTicked s, beginStep_blockKept s, beginStep_flush s,
      .inr ⟨hpc, beginStep_advance_pc hpc⟩⟩
  | execute _ hpc hc =>
    exact ⟨hF, rfl, beginStep_timersTicked s, beginStep_blockKept s, beginStep_flush s,
      .inr ⟨hpc, beginStep_advance_pc hpc⟩⟩

/-- Settles O17: the fetch and the decode raise one kind each, and the execute phase those of its causes. -/
theorem stepFaultsOnlyForTheCausesListed : Obligations.StepFaultsOnlyForTheCausesListed := by
  intro s t r h
  obtain ⟨-, hs⟩ := stepFaults_of_fault h
  cases hs with
  | fetch hpc => exact .inr (.inl ⟨_, _, rfl, by omega, by omega⟩)
  | decode op hf hd => exact .inl ⟨op, rfl, hd, hf⟩
  | execute _ hpc hc =>
    cases hc with
    | outOfRange addr len hlen hend => exact .inr (.inl ⟨addr, len, rfl, hlen, hend⟩)
    | stackFull hfull => exact .inr (.inr (.inl ⟨by simp, by simpa [State.sp] using hfull⟩))
    | pastBottom y0 n hset hn hend => exact .inr (.inr (.inr ⟨y0, n, rfl, by simpa using hset, hn, by omega⟩))

/-! ## The invariant -/

/-- The invariant reads the memory, the stack, the parameters and PC only. -/
theorem State.Inv.congr {s t : State} (h : s.Inv) (hmem : t.mem = s.mem) (hstack : t.stack = s.stack)
    (hparams : t.params = s.params) (hpc : t.pc.toNat ≤ 0x10FE) : t.Inv where
  memory := hmem ▸ h.memory
  depth := by simpa [State.sp, hstack, hparams] using h.depth
  returns := hstack ▸ h.returns
  fallback := hparams ▸ h.fallback
  pcBound := hpc

/-- The new PC is within the bound when the execute phase began with PC at 2 to 4096. -/
theorem NextPc.bound {s : State} {w : Word} (h : NextPc s w) (hs : s.Inv) (hlo : 2 ≤ s.pc.toNat)
    (hhi : s.pc.toNat ≤ 4096) : w.toNat ≤ 0x10FE := by
  cases h with
  | target w hw => exact hw
  | fallback => exact hs.fallback
  | here => omega
  | skip => simp [BitVec.toNat_add]; omega
  | back => simp [BitVec.toNat_sub]; omega

/-- Every effect keeps the invariant when the execute phase began with PC at 2 to 4096. -/
theorem Effect.inv {s t : State} {i : Instr} (h : Effect s i t) (hs : s.Inv) (hlo : 2 ≤ s.pc.toNat)
    (hhi : s.pc.toNat ≤ 4096) : t.Inv := by
  cases h with
  | setsPc w hw => exact hs.congr rfl rfl rfl (hw.bound hs hlo hhi)
  | calls addr hroom =>
    refine ⟨hs.memory, ?depth, ?entries, hs.fallback, ?pc⟩
    case depth => simpa [State.sp] using hroom
    case entries =>
      intro w hw
      rcases List.mem_append.mp hw with hw | hw
      · exact hs.returns w hw
      · rw [List.mem_singleton.mp hw]
        exact hhi
    case pc => simp; omega
  | returns l w htop =>
    have hw : w.toNat ≤ 4096 := hs.returns w (by simp [htop])
    refine ⟨hs.memory, ?shorter, ?rest, hs.fallback, ?top⟩
    case shorter =>
      have hdepth := hs.depth
      simp only [State.sp, htop, List.length_append] at hdepth
      exact Nat.le_of_succ_le hdepth
    case rest => exact fun v hv => hs.returns v (by rw [htop]; exact List.mem_append_left _ hv)
    case top => exact Nat.le_trans hw (by decide)
  | stores m hi hm => exact ⟨hm hs.memory, hs.depth, hs.returns, hs.fallback, hs.pcBound⟩
  | _ => exact hs.congr rfl rfl rfl hs.pcBound

/-- The phases before the execute phase keep the invariant. -/
theorem beginStep_advance_inv {s : State} (h : s.Inv) (hpc : s.pc.toNat ≤ 4094) : (beginStep s).advance.Inv :=
  h.congr (by simp) (by simp) (by simp) (by rw [beginStep_advance_pc hpc]; omega)

/-- Settles O18: a step that completes leaves an effect on the state handed to execute, which meets the invariant with PC at
2 to 4096; a step that faults leaves a state of the phases before. -/
theorem everyStepKeepsTheInvariant : Obligations.EveryStepKeepsTheInvariant := by
  intro s hs
  refine ⟨fun t h => ?next, fun r t h => ?fault⟩
  case next =>
    obtain ⟨i, -, hpc, he⟩ := effect_of_step h
    have hadv := beginStep_advance_pc hpc
    exact he.inv (beginStep_advance_inv hs hpc) (by omega) (by omega)
  case fault =>
    obtain ⟨-, hf⟩ := stepFaults_of_fault h
    cases hf with
    | fetch hpc => exact hs.congr (beginStep_mem s) (beginStep_stack s) (beginStep_params s) (by simpa using hs.pcBound)
    | decode op hf hd =>
      have hinv := beginStep_advance_inv hs (pc_le_of_fetch hf)
      exact hinv.congr rfl rfl rfl hinv.pcBound
    | execute _ hpc hc =>
      have hinv := beginStep_advance_inv hs hpc
      exact hinv.congr rfl rfl rfl hinv.pcBound

/-- Settles O19: the memory and the stack are empty, and both PC and RET_EMPTY_PC are 0x200. -/
theorem resetMeetsTheInvariant : Obligations.ResetMeetsTheInvariant where
  memory := reset_mem_wf
  depth := by decide
  returns := by simp [State.reset]
  fallback := by decide
  pcBound := by decide

end Sys2Proof.Machine
end

section
/-! Proofs of the whole-machine frames: what a step changes only by the instructions named for it, and what an instruction
leaves alone. -/

namespace Sys2Proof.Machine

/-- The next instruction is none that a hypothesis rules out. -/
theorem ne_of_nextInstr_ne {s : State} {i j : Instr} (hn : s.nextInstr = some i) (h : s.nextInstr ≠ some j) : i ≠ j :=
  fun hij => h (hij ▸ hn)

/-- Settles O15: the phase before the fetch ticks both timers by the sampled input, and only the timer's own write changes
one after it. -/
theorem timersChangeByTicksAndTheirOwnWrites : Obligations.TimersChangeByTicksAndTheirOwnWrites := by
  intro s t h
  obtain ⟨i, hn, -, he⟩ := effect_of_step h
  have hinput : t.input = (beginStep s).input := he.input_eq
  obtain ⟨hdt, hst⟩ := beginStep_timersTicked s
  refine ⟨fun hi => ?dt, fun hi => ?st, fun now rest hp => ?input⟩
  case dt => rw [he.dt_eq fun x => ne_of_nextInstr_ne hn (hi x), hinput]; exact hdt
  case st => rw [he.st_eq fun x => ne_of_nextInstr_ne hn (hi x), hinput]; exact hst
  case input => rw [hinput, (beginStep_supplied hp).1]

/-- Settles O28: only the two stores have an effect on the memory. -/
theorem onlyTheTwoStoresChangeMemory : Obligations.OnlyTheTwoStoresChangeMemory := by
  intro s t h hregs hbcd
  obtain ⟨i, hn, -, he⟩ := effect_of_step h
  have hmem := he.mem_eq (fun x => ne_of_nextInstr_ne hn (hregs x)) (fun x => ne_of_nextInstr_ne hn (hbcd x))
  exact State.readByte_congr (hmem.trans (beginStep_mem s))

/-- Settles O29: only the two display instructions have an effect on the display. -/
theorem onlyClearScreenAndDrawChangeTheDisplay : Obligations.OnlyClearScreenAndDrawChangeTheDisplay := by
  intro s t h hclear hdraw
  obtain ⟨i, hn, -, he⟩ := effect_of_step h
  have hdisplay := he.display_eq (ne_of_nextInstr_ne hn hclear) (fun x y n => ne_of_nextInstr_ne hn (hdraw x y n))
  exact hdisplay.trans (beginStep_display s)

/-- Settles O31: only the call and the return have an effect on the stack. -/
theorem onlyCallAndReturnChangeTheStack : Obligations.OnlyCallAndReturnChangeTheStack := by
  intro s t h hcall hret
  obtain ⟨i, hn, -, he⟩ := effect_of_step h
  have hstack := he.stack_eq (fun a => ne_of_nextInstr_ne hn (hcall a)) (ne_of_nextInstr_ne hn hret)
  exact hstack.trans (beginStep_stack s)

/-- Settles O30: the step begins with the flush output false, Draw sets it, and no other effect touches it. -/
theorem flushExactlyAfterDraw : Obligations.FlushExactlyAfterDraw := by
  intro s t h
  obtain ⟨i, hn, -, he⟩ := effect_of_step h
  constructor
  · intro hflush
    by_contra hno
    have hkept := he.flush_eq fun x y n hi => hno ⟨x, y, n, hi ▸ hn⟩
    simp [hflush] at hkept
  · rintro ⟨x, y, n, hdraw⟩
    obtain rfl : i = .draw x y n := Option.some.inj (hn.symm.trans hdraw)
    exact he.flush_of_draw

/-- Settles O27: an effect writes the named destinations, and VF where the instruction writes it as a flag. -/
theorem registersChangeOnlyWhereNamedOrFlagged : Obligations.RegistersChangeOnlyWhereNamedOrFlagged :=
  fun _ _ _ _ h hdst hvf => (effect_of_next h).getV_eq hdst hvf

/-! ## Control flow (R120) -/

/-- Writing PC keeps the registers, the memory, the display, the latch and the signals. -/
theorem State.setPc_dataKept (s : State) (w : Word) : DataKept s (s.setPc w) :=
  ⟨fun _ _ => rfl, fun _ => rfl, rfl, rfl, rfl, rfl, rfl, rfl, rfl⟩

/-- Writing the stack and PC keeps them too. -/
theorem State.setStack_setPc_dataKept (s : State) (l : List Word) (w : Word) : DataKept s ((s.setStack l).setPc w) :=
  ⟨fun _ _ => rfl, fun _ => rfl, rfl, rfl, rfl, rfl, rfl, rfl, rfl⟩

/-- A control-flow instruction names no destination. -/
theorem namedDests_of_isControlFlow {i : Instr} (h : i.isControlFlow = true) : i.namedDests = [] := by
  cases i with
  | subroutineReturn | jump | subroutineCall | jumpOffset => rfl
  | skipIfEqualImm | skipIfNotEqualImm | skipIfEqualReg | skipIfNotEqualReg => rfl
  | _ => cases h

/-- Settles O38: of the effects, a control-flow instruction can only have those that write PC, or the stack and PC. -/
theorem controlFlowTouchesOnlyPcAndTheStack : Obligations.ControlFlowTouchesOnlyPcAndTheStack := by
  intro i s t hflow h
  have hdests := namedDests_of_isControlFlow hflow
  cases effect_of_next h with
  | setsPc w => exact ⟨s.setPc_dataKept w, rfl, rfl, rfl⟩
  | calls addr => exact ⟨s.setStack_setPc_dataKept _ _, rfl, rfl, rfl⟩
  | returns l w => exact ⟨s.setStack_setPc_dataKept l w, rfl, rfl, rfl⟩
  | setsReg b hdst => simp [hdests] at hdst
  | setsFlagAndReg p q a b hdst => simp [hdests] at hdst
  | setsI w _ hno => simp [hflow] at hno
  | stores m hi => rcases hi with ⟨x, rfl⟩ | ⟨x, rfl⟩ <;> cases hflow
  | _ => cases hflow

/-! ## Inputs (R112) -/

theorem skipIf_withInput (s : State) (c : Bool) (j : StepInput) :
    (s.withInput j).skipIf c = (s.skipIf c).withInput j := by
  cases c <;> rfl

theorem setVFrom_withInput (s : State) (k : Nat) (bs : List Byte) (j : StepInput) :
    (s.withInput j).setVFrom k bs = (s.setVFrom k bs).withInput j := by
  induction bs generalizing s k with
  | nil => rfl
  | cons b bs ih =>
    rw [State.setVFrom, State.setVFrom, ← ih]
    congr 1
    split <;> rfl

@[simp] theorem State.withInput_mem (s : State) (j : StepInput) : (s.withInput j).mem = s.mem := rfl
@[simp] theorem State.withInput_i (s : State) (j : StepInput) : (s.withInput j).i = s.i := rfl
@[simp] theorem State.withInput_stack (s : State) (j : StepInput) : (s.withInput j).stack = s.stack := rfl
@[simp] theorem State.withInput_params (s : State) (j : StepInput) : (s.withInput j).params = s.params := rfl
@[simp] theorem State.withInput_getV (s : State) (j : StepInput) (r : Reg) : (s.withInput j).getV r = s.getV r := rfl

theorem storeAtI_withInput (bs : List Byte) (s : State) (j : StepInput) :
    storeAtI bs (s.withInput j) = mapOutcome (State.withInput j) (storeAtI bs s) := by
  simp only [storeAtI, State.withInput_mem, State.withInput_i]
  cases memWrite s.mem s.i.toNat bs <;> rfl

theorem execSubroutineReturn_withInput (s : State) (j : StepInput) :
    execSubroutineReturn (s.withInput j) = mapOutcome (State.withInput j) (execSubroutineReturn s) := by
  simp only [execSubroutineReturn, State.pop, State.withInput_stack]
  cases s.stack.getLast? <;> rfl

theorem execSubroutineCall_withInput (addr : Addr12) (s : State) (j : StepInput) :
    execSubroutineCall addr (s.withInput j) = mapOutcome (State.withInput j) (execSubroutineCall addr s) := by
  unfold execSubroutineCall
  rcases s.push_cases s.pc with ⟨hroom, h⟩ | ⟨hfull, h⟩ <;> rw [h]
  · rw [show (s.withInput j).push (s.withInput j).pc = some _ from if_pos hroom]
    rfl
  · rw [show (s.withInput j).push (s.withInput j).pc = none from if_neg (Nat.not_lt.mpr hfull)]
    rfl

theorem execDraw_withInput (x y : Reg) (n : Nibble) (s : State) (j : StepInput) :
    execDraw x y n (s.withInput j) = mapOutcome (State.withInput j) (execDraw x y n s) := by
  simp only [execDraw, State.withInput_mem, State.withInput_i, State.withInput_params, State.withInput_getV]
  cases memRead s.mem s.i.toNat n.val with
  | none => rfl
  | some sprite =>
    by_cases hb : s.params.drawBottom = .fault ∧ passesBottom (originRow (s.getV y)) n.val
    · simp only [if_pos hb]
      exact if_pos hb
    · simp only [if_neg hb]
      exact if_neg hb

theorem execLoadRegistersMemory_withInput (x : Reg) (s : State) (j : StepInput) :
    execLoadRegistersMemory x (s.withInput j) = mapOutcome (State.withInput j) (execLoadRegistersMemory x s) := by
  simp only [execLoadRegistersMemory, State.withInput_mem, State.withInput_i]
  cases memRead s.mem s.i.toNat (x.val + 1) with
  | none => rfl
  | some bytes => exact congrArg _ (setVFrom_withInput s 0 bytes j)

/-- Settles O26: an instruction reads the input in the key or in the random byte it consumes only, so the other input goes
unread into the state it leaves. -/
theorem unconsumedInputsHaveNoEffect : Obligations.UnconsumedInputsHaveNoEffect := by
  intro i s j hkey hrnd
  cases i with
  | skipIfEqualImm x kk => exact congrArg _ (skipIf_withInput s _ j)
  | skipIfNotEqualImm x kk => exact congrArg _ (skipIf_withInput s _ j)
  | skipIfEqualReg x y => exact congrArg _ (skipIf_withInput s _ j)
  | skipIfNotEqualReg x y => exact congrArg _ (skipIf_withInput s _ j)
  | subroutineReturn => exact execSubroutineReturn_withInput s j
  | subroutineCall addr => exact execSubroutineCall_withInput addr s j
  | draw x y n => exact execDraw_withInput x y n s j
  | storeBcd x => exact storeAtI_withInput _ s j
  | loadMemoryRegisters x => exact storeAtI_withInput _ s j
  | loadRegistersMemory x => exact execLoadRegistersMemory_withInput x s j
  | random x kk =>
    have hr : (s.withInput j).input.rnd = s.input.rnd := hrnd.resolve_left Bool.noConfusion
    simp only [exec, execRandom, hr]
    rfl
  | skipIfKeyPressed x =>
    have hk : (s.withInput j).input.key = s.input.key := hkey.resolve_left Bool.noConfusion
    simp only [exec, execSkipIfKeyPressed, hk]
    exact congrArg _ (skipIf_withInput s _ j)
  | skipIfKeyNotPressed x =>
    have hk : (s.withInput j).input.key = s.input.key := hkey.resolve_left Bool.noConfusion
    simp only [exec, execSkipIfKeyNotPressed, hk]
    exact congrArg _ (skipIf_withInput s _ j)
  | waitKey x =>
    have hk : (s.withInput j).input.key = s.input.key := hkey.resolve_left Bool.noConfusion
    simp only [exec, execWaitKey, hk]
    cases s.input.key <;> rfl
  | _ => rfl

end Sys2Proof.Machine
end

section
/-! Proofs about steps at known instructions (a finished run, WaitKey without a key, the timer read) and about the host's
operations (70_reset_and_hazards.md): reset and image load. -/

namespace Sys2Proof.Machine

/-! ## The end of a run (R252) -/

/-- The fetch reads PC and the memory only (R102). -/
theorem fetchOpcode_congr {s t : State} (hpc : t.pc = s.pc) (hmem : t.mem = s.mem) : fetchOpcode t = fetchOpcode s := by
  simp [fetchOpcode, hpc, State.readByte_congr hmem]

theorem State.finished_iff (s : State) :
    s.finished = true ↔ s.fault = none ∧ fetchOpcode s = some (encode (.jump (s.pc.setWidth 12))) := by
  simp [State.finished]

/-- A PC inside memory fits an address field (R27, R72). -/
theorem zextAddr_setWidth {w : Word} (h : w.toNat ≤ 4094) : zextAddr (w.setWidth 12) = w := by
  apply BitVec.eq_of_toNat_eq
  rw [zextAddr_toNat, BitVec.toNat_setWidth]
  omega

/-- Settles O25: the step executes the jump, which puts PC back where it was, so the same opcode is fetched again. -/
theorem finishedRunsStayFinished : Obligations.FinishedRunsStayFinished := by
  intro s h
  obtain ⟨hF, hf⟩ := s.finished_iff.mp h
  have hstep := step_of_instr hF hf (decodeOfEncodeIsTheInstruction _)
  have hpc : zextAddr (s.pc.setWidth 12) = s.pc := zextAddr_setWidth (pc_le_of_fetch hf)
  refine ⟨_, hstep, ?again, hpc, beginStep_timersTicked s, beginStep_blockKept s⟩
  rw [State.finished_iff]
  have hsame := fetchOpcode_congr (s := s) (t := (beginStep s).advance.setPc s.pc) rfl (beginStep_mem s)
  exact ⟨(beginStep_fault s).trans hF, by simpa [hpc] using hsame.trans hf⟩

/-- Settles O55: WaitKey without a key takes back the advance of PC, and the step has done nothing else but its first phases. -/
theorem waitKeyStepStaysOnItselfWithoutAKey : Obligations.WaitKeyStepStaysOnItselfWithoutAKey := by
  intro x s now rest hF hn hp hkey
  have hnokey : (beginStep s).advance.input.key = none := by
    rw [State.advance_input, (beginStep_supplied hp).1, hkey]
  have hstep : step s = .next (beginStep s).advance.retreat := by
    rw [step_of_nextInstr hF hn]
    simp only [exec, execWaitKey, hnokey]
  exact ⟨_, hstep, by simp, (beginStep_fault s).trans hF, beginStep_timersTicked s, beginStep_blockKept s⟩

/-- Settles O53: the read copies DT, and the step's tick update comes before it. -/
theorem loadRegDelayReadsTheTickedTimer : Obligations.LoadRegDelayReadsTheTickedTimer := by
  intro x s
  refine ⟨exec_setV_spec rfl, fun hF hn => ⟨_, step_of_nextInstr hF hn, ?ticked⟩⟩
  case ticked =>
    rw [State.getV_setV_same]
    exact (beginStep_timersTicked s).1

/-! ## Reset (R240, R241) -/

/-- Settles O20: the state after reset is itself a host reset, of the state with the default parameters. -/
theorem resetLeavesTheResetValues : Obligations.ResetLeavesTheResetValues := by
  intro t ht
  obtain ⟨s, rfl⟩ : ∃ s, t = hostReset s := by
    rcases ht with rfl | hs
    · exact ⟨State.reset, rfl⟩
    · exact hs
  refine ⟨rfl, State.pixel_of_cleared (hostReset_display s), fun r => ?regs, rfl, rfl, rfl, rfl, fun _ => rfl, rfl⟩
  case regs => simp [State.getV, hostReset, State.reset]

/-- Settles O23: the two bytes at 0x200 are 0 after reset, and 0x0000 is a reserved encoding. -/
theorem stepAfterResetWithoutImageFaults : Obligations.StepAfterResetWithoutImageFaults := by
  have hf : fetchOpcode State.reset = some 0x0000#16 := by decide
  have hd : decode 0x0000#16 = .failure 0x0000#16 := by decide
  refine ⟨_, step_of_illegal rfl hf hd, ?pc⟩
  case pc => simp [State.reset, Config.pcReset]

/-! ## The image load (R243, R245) -/

/-- The memory after the load of `rom`: the font table, then the ROM. -/
def imageOver (rom : List Byte) (s : State) : Memory :=
  (s.mem.writeAll 0 s.params.fontTable.toList).writeAll 0x200 rom

/-- Everything a load can answer: the size check decides. -/
theorem loadImage_cases (rom : List Byte) (s : State) :
    (3584 ≤ rom.length ∧ loadImage rom s = .error (.romTooBig rom.length)) ∨
      (rom.length ≤ 3583 ∧ loadImage rom s = .ok (s.setMem (imageOver rom s))) := by
  unfold loadImage Config.memSize Config.progBase
  by_cases h : 4096 ≤ 0x200 + rom.length
  · exact .inl ⟨by omega, if_pos h⟩
  · exact .inr ⟨by omega, if_neg h⟩

section
variable {rom : List Byte} {s : State} {a : Nat}

/-- A byte outside the ROM is that of the memory with the font. -/
theorem imageOver_outside_rom (h : a < 0x200 ∨ 0x200 + rom.length ≤ a) :
    (imageOver rom s).read a = (s.mem.writeAll 0 s.params.fontTable.toList).read a :=
  Memory.read_writeAll_outside h

/-- A byte outside both is as before. -/
theorem imageOver_outside (h : 80 ≤ a ∧ a < 0x200 ∨ 0x200 + rom.length ≤ a) :
    (imageOver rom s).read a = s.readByte a := by
  rw [imageOver_outside_rom (by omega), Memory.read_writeAll_outside (.inr (by simp; omega))]
  rfl

theorem imageOver_font (hm : s.mem.wf) (h : a < 80) : (imageOver rom s).read a = s.params.fontTable[a] := by
  rw [imageOver_outside_rom (by omega)]
  have hfont := Memory.read_writeAll_inside (a := 0) (k := a) (bs := s.params.fontTable.toList) hm.1 (by simpa using h)
  simpa using hfont

/-- The memory with the font alone is canonical. -/
theorem fontOver_wf (hm : s.mem.wf) : (s.mem.writeAll 0 s.params.fontTable.toList).wf :=
  Memory.wf_writeAll (by simp [Config.memSize]) hm

theorem imageOver_rom (hm : s.mem.wf) (h : a < rom.length) : (imageOver rom s).read (0x200 + a) = rom[a] :=
  Memory.read_writeAll_inside (fontOver_wf hm).1 h

theorem imageOver_wf (hm : s.mem.wf) (h : rom.length ≤ 3583) : (imageOver rom s).wf :=
  Memory.wf_writeAll (by simp only [Config.memSize]; omega) (fontOver_wf hm)

end

/-- Settles O21: 0x200 and 3584 bytes are the 4096 at which the check fails, and below that the ROM ends before 0xFFF. -/
theorem loadImageFailsExactlyFrom3584Bytes : Obligations.LoadImageFailsExactlyFrom3584Bytes := by
  intro rom s
  rcases loadImage_cases rom s with ⟨hlen, h⟩ | ⟨hlen, h⟩
  · exact ⟨fun _ => h, fun hle => by omega⟩
  · exact ⟨fun hge => by omega, fun _ => ⟨_, h, imageOver_outside (by omega)⟩⟩

/-- Settles O22: a load that succeeds changes the memory only, to the image over the old bytes. -/
theorem loadImageWritesFontAndRomOnly : Obligations.LoadImageWritesFontAndRomOnly := by
  intro rom s t hm ht
  rcases loadImage_cases rom s with ⟨-, h⟩ | ⟨hlen, h⟩
  · simp [h] at ht
  · obtain rfl : s.setMem (imageOver rom s) = t := LoadResult.ok.inj (h.symm.trans ht)
    refine ⟨fun k hk => imageOver_font hm hk, fun k hk => imageOver_rom hm hk, fun a ha => imageOver_outside ha,
      imageOver_wf hm hlen, fun r _ => s.setMem_getV _ r, ?specials, ?signals, s.setMem_pc _⟩
    case specials => simp [SpecialsKept]
    case signals => simp [SignalsKept]

end Sys2Proof.Machine
end

section
/-! Proofs of the memory-operations family (42_memory_ops.md, 46_misc_timer_key.md section BCD): the stores and the load. -/

namespace Sys2Proof.Machine

/-! ## The store at I (R53) -/

/-- Bytes that fit in memory from I on are stored there, and nothing else changes. -/
theorem storeAtI_stores {s : State} {bs : List Byte} (hm : s.mem.wf) (hin : s.i.toNat + bs.length ≤ 4096) :
    ∃ t, storeAtI bs s = .next t ∧ (∀ (k : Nat) (hk : k < bs.length), t.readByte (s.i.toNat + k) = bs[k]) ∧
      OnlyMemory s.i.toNat bs.length s t := by
  rcases storeAtI_cases bs s with ⟨-, h⟩ | ⟨-, hend, -⟩
  · refine ⟨_, h, fun k hk => Memory.read_writeAll_inside hm.1 hk, fun r _ => s.setMem_getV _ r,
      fun a ha => Memory.read_writeAll_outside ha, ?specials, ?signals, s.setMem_pc _⟩
    case specials => simp [SpecialsKept]
    case signals => simp [SignalsKept]
  · omega

/-- Bytes that do not fit fault, and only the latch changes. -/
theorem storeAtI_faults {s : State} {bs : List Byte} (hne : bs ≠ []) (hend : 4096 < s.i.toNat + bs.length) :
    storeAtI bs s = .fault (.raised (.addressOutOfRange s.i.toNat bs.length)
      { s with fault := some (.addressOutOfRange s.i.toNat bs.length) }) := by
  rcases storeAtI_cases bs s with ⟨rfl | hin, -⟩ | ⟨-, -, h⟩
  · exact absurd rfl hne
  · omega
  · exact h

/-- Settles O40: the bytes stored at I are V0 to Vx, x + 1 of them. -/
theorem loadMemoryRegistersStoresInclusive : Obligations.LoadMemoryRegistersStoresInclusive := by
  intro x s hm
  have hlen := firstRegs_length s x
  refine ⟨fun hin => ?stores, fun hend => ?faults⟩
  case stores =>
    obtain ⟨t, ht, hread, honly⟩ := storeAtI_stores hm (bs := firstRegs s x) (by omega)
    refine ⟨t, ht, fun k hk => ?_, hlen ▸ honly⟩
    have hkx : k.val ≤ x.val := hk
    rw [hread k.val (by omega), firstRegs_getElem]
  case faults =>
    have hfault := storeAtI_faults (s := s) (bs := firstRegs s x) (List.ne_nil_of_length_pos (by omega)) (by omega)
    rwa [hlen] at hfault

@[simp] theorem bcdDigits_length (b : Byte) : (bcdDigits b).length = 3 := rfl

/-- Settles O58: the three bytes stored at I are the quotients and remainders of Vx by 100 and by 10. -/
theorem storeBcdStoresTheDecimalDigits : Obligations.StoreBcdStoresTheDecimalDigits := by
  intro x s hm
  refine ⟨fun hin => ?stores, fun hend => storeAtI_faults (List.cons_ne_nil _ _) (by rw [bcdDigits_length]; omega)⟩
  case stores =>
    obtain ⟨t, ht, hread, honly⟩ := storeAtI_stores hm (bs := bcdDigits (s.getV x)) (by rw [bcdDigits_length]; omega)
    have h0 : t.readByte s.i.toNat = BitVec.ofNat 8 ((s.getV x).toNat / 100) := hread 0 (by simp)
    have h1 : t.readByte (s.i.toNat + 1) = BitVec.ofNat 8 ((s.getV x).toNat / 10 % 10) := hread 1 (by simp)
    have h2 : t.readByte (s.i.toNat + 2) = BitVec.ofNat 8 ((s.getV x).toNat % 10) := hread 2 (by simp)
    have hv := (s.getV x).isLt
    refine ⟨t, ht, honly, ?_⟩
    simp only [h0, h1, h2, BitVec.toNat_ofNat]
    omega

/-- Settles O24: the store completed, so its bytes lie in memory, and the fetch reads the two at PC. -/
theorem storedCodeIsFetchedNext : Obligations.StoredCodeIsFetchedNext := by
  intro x j k s t hm h hk hkx hpc
  obtain ⟨hstores, hfaults⟩ := loadMemoryRegistersStoresInclusive x s hm
  have hin : s.i.toNat + x.val ≤ 4095 := by
    by_contra hend
    simp [hfaults (by omega)] at h
  obtain ⟨t', ht', hread, -, -, -, -, hpc'⟩ := hstores hin
  obtain rfl : t' = t := Host.Outcome.next.inj (ht'.symm.trans h)
  have hkx' : k.val ≤ x.val := hkx
  have hjx : j ≤ x := Fin.le_def.mpr (by omega)
  rw [fetchOpcode_of_pc_le (by rw [hpc']; omega), hpc', hpc, hread j hjx, Nat.add_assoc, ← hk, hread k hkx]

/-! ## The load from I (R144) -/

/-- A run of register writes from V0 on changes only registers it reaches. -/
theorem State.setVFrom_onlyRegisters (s : State) {bs : List Byte} {dst : List Reg}
    (h : ∀ r, r ∉ dst → bs.length ≤ r.val) : OnlyRegisters dst s (s.setVFrom 0 bs) := by
  have hregs : RegsKept dst s (s.setVFrom 0 bs) := fun r hr => by
    rw [s.setVFrom_getV 0 bs r, dif_neg fun hlt => absurd (h r hr) (by omega)]
  rw [State.setVFrom_frame] at hregs ⊢
  exact ⟨hregs, fun _ => rfl, ⟨rfl, rfl, rfl, rfl, rfl, rfl⟩, ⟨rfl, rfl, rfl, rfl, rfl⟩, rfl⟩

/-- Settles O41: the checked read answers the x + 1 bytes at I, and they go to V0 to Vx. -/
theorem loadRegistersMemoryLoadsInclusive : Obligations.LoadRegistersMemoryLoadsInclusive := by
  intro x s
  simp only [exec, execLoadRegistersMemory]
  rcases memRead_cases s.mem s.i.toNat (x.val + 1) with ⟨hin, h⟩ | ⟨-, hend, h⟩ <;> rw [h]
  · refine ⟨fun _ => ⟨_, rfl, fun k hk => ?value, s.setVFrom_onlyRegisters fun r hr => ?others⟩, fun hend => by omega⟩
    case value =>
      have hkx : k.val ≤ x.val := hk
      rw [s.setVFrom_getV, dif_pos (by simp; omega)]
      simp [State.readByte]
    case others => simpa using hr
  · exact ⟨fun hin => by omega, fun _ => rfl⟩

/-- Settles O42: the load reads the bytes the store wrote, from the same I. -/
theorem storeThenLoadGivesTheRegistersBack : Obligations.StoreThenLoadGivesTheRegistersBack := by
  intro x s hm hin
  obtain ⟨t, ht, hread, -, -, ⟨hi, -⟩, -⟩ := (loadMemoryRegistersStoresInclusive x s hm).1 hin
  refine ⟨t, ht, fun w hwi hw => ?_⟩
  obtain ⟨u, hu, hval, -⟩ := (loadRegistersMemoryLoadsInclusive x w).1 (by rw [hwi, hi]; exact hin)
  refine ⟨u, hu, fun k hk => ?_⟩
  rw [hval k hk, hwi, hw k.val hk, hi, hread k hk]

end Sys2Proof.Machine
end

section
/-! Proofs of the control-flow family (41_control_flow.md): the call, the return and the offset jump. -/

namespace Sys2Proof.Machine

theorem exec_call_of_room {s : State} (addr : Addr12) (hroom : s.sp < s.params.stackDepth) :
    exec (.subroutineCall addr) s = .next ((s.setStack (s.stack ++ [s.pc])).setPc (zextAddr addr)) := by
  rcases s.push_cases s.pc with ⟨-, h⟩ | ⟨hfull, -⟩
  · simp only [exec, execSubroutineCall, h]
  · omega

theorem exec_call_of_full {s : State} (addr : Addr12) (hfull : s.params.stackDepth ≤ s.sp) :
    exec (.subroutineCall addr) s = raise (.stackOverflow s.pc) s := by
  rcases s.push_cases s.pc with ⟨hroom, -⟩ | ⟨-, h⟩
  · omega
  · simp only [exec, execSubroutineCall, h]

theorem exec_return_of_top {s : State} {l : List Word} {w : Word} (h : s.stack = l ++ [w]) :
    exec .subroutineReturn s = .next ((s.setStack l).setPc w) := by
  simp only [exec, execSubroutineReturn, State.pop_top h]

theorem exec_return_of_empty {s : State} (h : s.stack = []) :
    exec .subroutineReturn s = .next (s.setPc s.params.retEmptyPc) := by
  simp only [exec, execSubroutineReturn, State.pop_empty h]

/-- Settles O33: the push decides. -/
theorem subroutineCallPushesOrOverflows : Obligations.SubroutineCallPushesOrOverflows := fun addr s =>
  ⟨fun hroom => ⟨_, exec_call_of_room addr hroom, rfl, zextAddr_toNat addr, s.setStack_setPc_dataKept _ _, rfl, rfl, rfl⟩,
    exec_call_of_full addr⟩

/-- Settles O34: the pop decides. -/
theorem subroutineReturnPopsOrFallsBack : Obligations.SubroutineReturnPopsOrFallsBack := by
  intro s
  rcases s.pop_cases with ⟨hempty, -⟩ | ⟨l, w, htop, -⟩
  · refine ⟨_, exec_return_of_empty hempty, s.setPc_dataKept _, rfl, rfl, rfl, fun l w hl => ?_, fun _ => ⟨rfl, hempty⟩⟩
    simp [hempty] at hl
  · refine ⟨_, exec_return_of_top htop, s.setStack_setPc_dataKept _ _, rfl, rfl, rfl, fun l' w' hl => ?_, fun hl => ?_⟩
    · obtain ⟨rfl, hw⟩ := List.append_inj' (htop.symm.trans hl) rfl
      exact ⟨List.head_eq_of_cons_eq hw, rfl⟩
    · simp [htop] at hl

/-- Settles O35: the stack the call leaves has the old PC on top of the old stack. -/
theorem returnComesBackBehindTheCall : Obligations.ReturnComesBackBehindTheCall := fun addr _ hroom =>
  ⟨_, exec_call_of_room addr hroom, fun _ hw => ⟨_, exec_return_of_top hw, rfl, rfl⟩⟩

/-- Settles O37: the sum is at most 0x10FE, so it does not wrap. -/
theorem jumpOffsetAddsV0 : Obligations.JumpOffsetAddsV0 := fun addr s =>
  ⟨_, rfl, jumpOffset_toNat addr (s.getV 0), s.setPc_onlyPc _⟩

end Sys2Proof.Machine
end

section
/-! Proofs of the arithmetic and shift families (44_arithmetic.md, 45_logic.md section Shifts): each instruction writes Vx and
VF, in one order or the other. -/

namespace Sys2Proof.Machine

/-! ## The values written (R170 to R174, R184, R185) -/

theorem addWrap_toNat (a b : Byte) : (addWrap a b).toNat = (a.toNat + b.toNat) % 256 :=
  BitVec.toNat_ofNat _ _

theorem subWrap_toNat (a b : Byte) : ((subWrap a b).toNat : Int) = ((a.toNat : Int) - b.toNat) % 256 := by
  rw [subWrap, BitVec.toNat_ofInt]
  omega

theorem flagByte_toNat (c : Bool) : (flagByte c).toNat = c.toNat := by
  cases c <;> rfl

/-- The carry is the quotient of the exact sum by 256. -/
theorem carryOut_toNat (a b : Byte) : (flagByte (carryOut a b)).toNat = (a.toNat + b.toNat) / 256 := by
  have ha := a.isLt
  have hb := b.isLt
  rw [flagByte_toNat, carryOut]
  by_cases h : 255 < a.toNat + b.toNat
  · simp only [h, decide_true, Bool.toNat_true]
    omega
  · simp only [h, decide_false, Bool.toNat_false]
    omega

theorem flagByte_notBorrow (a b : Byte) : flagByte (notBorrow a b) = if b.toNat ≤ a.toNat then 1 else 0 := by
  simp [flagByte, notBorrow]

theorem shiftRight1_toNat (a : Byte) : (shiftRight1 a).toNat = a.toNat / 2 := by
  simp [shiftRight1, Nat.shiftRight_eq_div_pow]

theorem shiftLeft1_toNat (a : Byte) : (shiftLeft1 a).toNat = 2 * a.toNat % 256 := by
  simp [shiftLeft1, Nat.shiftLeft_eq, Nat.mul_comm]

theorem lowBit_toNat (a : Byte) : (flagByte (lowBit a)).toNat = a.toNat % 2 := by
  rw [flagByte_toNat, lowBit, BitVec.getLsbD, Nat.toNat_testBit]
  omega

theorem highBit_toNat (a : Byte) : (flagByte (highBit a)).toNat = a.toNat / 128 := by
  have ha := a.isLt
  rw [flagByte_toNat, highBit, BitVec.getLsbD, Nat.toNat_testBit]
  omega

/-! ## The two writes -/

/-- Two register writes change those registers alone. -/
theorem State.setV_setV_onlyRegisters (s : State) {p q : Reg} {dst : List Reg} (a b : Byte) (hp : p ∈ dst) (hq : q ∈ dst) :
    OnlyRegisters dst s ((s.setV p a).setV q b) := by
  refine ⟨fun r hr => ?others, fun _ => rfl, ⟨rfl, rfl, rfl, rfl, rfl, rfl⟩, ⟨rfl, rfl, rfl, rfl, rfl⟩, rfl⟩
  have hpr : p ≠ r := fun h => hr (h ▸ hp)
  have hqr : q ≠ r := fun h => hr (h ▸ hq)
  simp [hpr, hqr]

/-- An addition leaves the sum in Vx, unless that is VF, and the carry in VF (R170, R171). -/
theorem addInto_spec (x : Reg) (a b : Byte) (s : State) :
    ∃ t, addInto x a b s = .next t ∧ (x ≠ VF → (t.getV x).toNat = (a.toNat + b.toNat) % 256) ∧
      (t.getV VF).toNat = (a.toNat + b.toNat) / 256 ∧ OnlyRegisters [x, VF] s t := by
  refine ⟨_, rfl, fun hx => ?sum, ?carry, s.setV_setV_onlyRegisters _ _ (by simp) (by simp)⟩
  case sum => rw [State.getV_setV_other _ _ hx.symm, State.getV_setV_same, addWrap_toNat]
  case carry => rw [State.getV_setV_same, carryOut_toNat]

/-- A write of a flag and then of a result leaves the result in Vx and, unless Vx is VF, the flag in VF. -/
theorem flag_then_result_spec (x : Reg) (flag result : Byte) (s : State) :
    ∃ t, (.next ((s.setV VF flag).setV x result) : Result) = .next t ∧ t.getV x = result ∧ (x ≠ VF → t.getV VF = flag) ∧
      OnlyRegisters [x, VF] s t := by
  refine ⟨_, rfl, State.getV_setV_same _ _ _, fun hx => ?flag, s.setV_setV_onlyRegisters _ _ (by simp) (by simp)⟩
  rw [State.getV_setV_other _ _ hx, State.getV_setV_same]

/-- A subtraction leaves the difference in Vx and, unless Vx is VF, the NOT-borrow in VF (R172, R173). -/
theorem subInto_spec (x : Reg) (a b : Byte) (s : State) :
    ∃ t, subInto x a b s = .next t ∧ ((t.getV x).toNat : Int) = ((a.toNat : Int) - b.toNat) % 256 ∧
      (x ≠ VF → t.getV VF = if b.toNat ≤ a.toNat then 1 else 0) ∧ OnlyRegisters [x, VF] s t := by
  obtain ⟨t, ht, hres, hflag, honly⟩ := flag_then_result_spec x (flagByte (notBorrow a b)) (subWrap a b) s
  exact ⟨t, ht, by rw [hres, subWrap_toNat], fun hx => by rw [hflag hx, flagByte_notBorrow], honly⟩

/-- A shift leaves the result in Vx and, unless Vx is VF, the bit shifted out in VF (R184, R185). -/
theorem shiftInto_spec {x : Reg} {out : Bool} {result : Byte} {outNat resNat : Nat} (s : State)
    (hout : (flagByte out).toNat = outNat) (hres : result.toNat = resNat) :
    ∃ t, shiftInto x out result s = .next t ∧ (t.getV x).toNat = resNat ∧ (x ≠ VF → (t.getV VF).toNat = outNat) ∧
      OnlyRegisters [x, VF] s t := by
  obtain ⟨t, ht, hr, hflag, honly⟩ := flag_then_result_spec x (flagByte out) result s
  exact ⟨t, ht, hr ▸ hres, fun hx => hflag hx ▸ hout, honly⟩

/-- Settles O47: both are an addition into Vx, of the immediate or of Vy. -/
theorem additionsWriteSumThenCarry : Obligations.AdditionsWriteSumThenCarry := fun x y kk s =>
  ⟨addInto_spec x (s.getV x) kk s, addInto_spec x (s.getV x) (s.getV y) s⟩

/-- Settles O48: both are a subtraction into Vx, with the operands in one order or the other. -/
theorem subtractionsWriteNotBorrowThenDifference : Obligations.SubtractionsWriteNotBorrowThenDifference := fun x y s =>
  ⟨subInto_spec x (s.getV x) (s.getV y) s, subInto_spec x (s.getV y) (s.getV x) s⟩

/-- Settles O50: both are a shift of Vx into Vx, which puts out its lowest or its highest bit. -/
theorem shiftsWriteBitOutThenResult : Obligations.ShiftsWriteBitOutThenResult := fun _ _ s =>
  ⟨shiftInto_spec s (lowBit_toNat _) (shiftRight1_toNat _), shiftInto_spec s (highBit_toNat _) (shiftLeft1_toNat _)⟩

end Sys2Proof.Machine
end

section
/-! Proofs of the miscellaneous family (46_misc_timer_key.md): random, keys, timer writes, address register. -/

namespace Sys2Proof.Machine

/-- Settles O51: a write of Vx alone, whose bits are those of the masked random byte. -/
theorem randomWritesTheMaskedInput : Obligations.RandomWritesTheMaskedInput :=
  fun _ _ _ => exec_setV_bits rfl fun _ => BitVec.getLsbD_and

/-- The byte of a key code is the code (R191, R194). -/
theorem keyByte_toNat (k : Nibble) : (keyByte k).toNat = k.val := by
  rw [keyByte, BitVec.toNat_ofNat]
  omega

/-- The reported key is the one of a byte when its code is the whole byte (R191; D19). -/
theorem keyIs_some (k : Nibble) (b : Byte) : keyIs (some k) b = decide (k.val = b.toNat) := by
  simp only [keyIs, ← BitVec.toNat_inj, keyByte_toNat]

/-- Settles O52: the one skips on the comparison, the other on its negation; without a key the comparison fails. -/
theorem keySkipsAreOppositesOnTheReportedKey : Obligations.KeySkipsAreOppositesOnTheReportedKey := by
  intro x s
  refine ⟨_, _, rfl, rfl, s.skipIf_onlyPc _, s.skipIf_onlyPc _, fun k hk heq => ?same, fun k hk hne => ?other,
    fun hk => ?none⟩
  case same => simp [hk, keyIs_some, heq]
  case other => simp [hk, keyIs_some, hne]
  case none => simp [hk, keyIs]

/-- Settles O54: the key decides between a write of Vx and taking PC back. -/
theorem waitKeyStoresTheKeyOrTakesPcBack : Obligations.WaitKeyStoresTheKeyOrTakesPcBack := by
  intro x s
  refine ⟨fun k hk => ?key, fun hk => ?noKey⟩
  case key =>
    have hexec : exec (.waitKey x) s = .next (s.setV x (keyByte k)) := by simp only [exec, execWaitKey, hk]
    obtain ⟨t, ht, hval, honly⟩ := exec_setV_spec hexec
    exact ⟨t, ht, by rw [hval, keyByte_toNat], honly⟩
  case noKey =>
    have hexec : exec (.waitKey x) s = .next s.retreat := by simp only [exec, execWaitKey, hk]
    exact ⟨_, hexec, s.retreat_pc, s.setPc_onlyPc _⟩

/-- Writing DT keeps the registers, the memory, the display, the latch and the signals. -/
theorem State.setDt_dataKept (s : State) (b : Byte) : DataKept s (s.setDt b) :=
  ⟨fun _ _ => rfl, fun _ => rfl, rfl, rfl, rfl, rfl, rfl, rfl, rfl⟩

/-- Writing ST keeps them too. -/
theorem State.setSt_dataKept (s : State) (b : Byte) : DataKept s (s.setSt b) :=
  ⟨fun _ _ => rfl, fun _ => rfl, rfl, rfl, rfl, rfl, rfl, rfl, rfl⟩

/-- Settles O56: each is a write of its timer alone. -/
theorem timerWritesSetTheTimer : Obligations.TimerWritesSetTheTimer := fun _ s =>
  ⟨⟨_, rfl, s.setDt_dt _, s.setDt_dataKept _, s.setDt_pc _, s.setDt_i _, s.setDt_st _, s.setDt_stack _⟩,
    ⟨_, rfl, s.setSt_st _, s.setSt_dataKept _, s.setSt_pc _, s.setSt_i _, s.setSt_dt _, s.setSt_stack _⟩⟩

/-- The glyph of a byte starts at five times the byte (R198; D20). -/
theorem glyphAddr_toNat (b : Byte) : (glyphAddr b).toNat = 5 * b.toNat := by
  have hb := b.isLt
  rw [glyphAddr, BitVec.toNat_ofNat, Config.fontBase, Config.glyphLen]
  omega

/-- Adding a byte to I wraps at 65536 (R197; D17). -/
theorem add_zextByte_toNat (w : Word) (b : Byte) : (w + zextByte b).toNat = (w.toNat + b.toNat) % 65536 := by
  simp [zextByte, BitVec.toNat_add]

/-- Settles O57: each is a write of I alone. -/
theorem addressInstructionsWriteIOnly : Obligations.AddressInstructionsWriteIOnly := fun x s =>
  ⟨⟨_, rfl, add_zextByte_toNat s.i (s.getV x), s.setI_dataKept _, s.setI_pc _, s.setI_dt _, s.setI_st _, s.setI_stack _⟩,
    ⟨_, rfl, glyphAddr_toNat (s.getV x), s.setI_dataKept _, s.setI_pc _, s.setI_dt _, s.setI_st _, s.setI_stack _⟩⟩

end Sys2Proof.Machine
end

section
/-! Proofs of the display family (43_display.md): Draw. -/

namespace Sys2Proof.Machine

/-! ## Everything Draw can do (R151, R156, R214, R215) -/

/-- The sprite's bytes, lowest address first (R151). -/
def spriteBytes (n : Nat) (s : State) : List Byte := (List.range n).map fun k => s.mem.read (s.i.toNat + k)

/-- The display with the sprite written, and whether it collided (R152). -/
def spriteWritten (x y : Reg) (n : Nibble) (s : State) : Vector Row 32 × Bool :=
  writeSprite s.display (s.getV x) (s.getV y) (spriteBytes n.val s)

/-- The state a Draw that completes answers (R151). -/
def drawnState (x y : Reg) (n : Nibble) (s : State) : State :=
  ((s.setDisplay (spriteWritten x y n s).1).setV VF (flagByte (spriteWritten x y n s).2)).setFlush true

/-- The sprite's bytes lie in memory. -/
def BytesFit (n : Nibble) (s : State) : Prop := n.val = 0 ∨ s.i.toNat + n.val ≤ 4096

/-- The sprite's rows are accepted: what passes the bottom edge is clipped, or nothing passes it. -/
def RowsFit (y : Reg) (n : Nibble) (s : State) : Prop :=
  s.params.drawBottom = .clip ∨ n.val = 0 ∨ (s.getV y).toNat % 32 + n.val ≤ 32

section
variable {x y : Reg} {n : Nibble} {s : State}

/-- The rows fit unless DRAW_BOTTOM is `fault` and they pass the bottom edge. -/
theorem rowsFit_iff :
    RowsFit y n s ↔ ¬ (s.params.drawBottom = .fault ∧ passesBottom (originRow (s.getV y)) n.val = true) := by
  rw [passesBottom_iff, originRow_eq, RowsFit]
  cases s.params.drawBottom <;> simp
  omega

theorem exec_draw_of_fit (hbytes : BytesFit n s) (hrows : RowsFit y n s) :
    exec (.draw x y n) s = .next (drawnState x y n s) := by
  rcases memRead_cases s.mem s.i.toNat n.val with ⟨-, h⟩ | ⟨hn, hend, -⟩
  · simp only [exec, execDraw, h]
    exact if_neg (rowsFit_iff.mp hrows)
  · unfold BytesFit at hbytes
    omega

theorem exec_draw_of_bytes_out (hbytes : ¬ BytesFit n s) :
    exec (.draw x y n) s = raise (.addressOutOfRange s.i.toNat n.val) s := by
  rcases memRead_cases s.mem s.i.toNat n.val with ⟨hfit, -⟩ | ⟨-, -, h⟩
  · exact absurd hfit hbytes
  · simp only [exec, execDraw, h]

theorem exec_draw_of_rows_out (hbytes : BytesFit n s) (hrows : ¬ RowsFit y n s) :
    exec (.draw x y n) s = raise (.displayRowOutOfRange ((s.getV y).toNat % 32) n.val) s := by
  rcases memRead_cases s.mem s.i.toNat n.val with ⟨-, h⟩ | ⟨hn, hend, -⟩
  · simp only [exec, execDraw, h]
    exact if_pos (not_not.mp (mt rowsFit_iff.mpr hrows))
  · unfold BytesFit at hbytes
    omega

/-- A Draw that completes had room for its bytes and its rows. -/
theorem fit_of_exec_draw {t : State} (h : exec (.draw x y n) s = .next t) :
    BytesFit n s ∧ RowsFit y n s ∧ t = drawnState x y n s := by
  by_cases hbytes : BytesFit n s
  · by_cases hrows : RowsFit y n s
    · exact ⟨hbytes, hrows, Host.Outcome.next.inj (h.symm.trans (exec_draw_of_fit hbytes hrows))⟩
    · rw [exec_draw_of_rows_out hbytes hrows] at h
      cases h
  · rw [exec_draw_of_bytes_out hbytes] at h
    cases h

end

/-- Settles O45: the bytes are checked first, the rows second, and both before anything is written. -/
theorem drawFaultsBeforeTouchingTheDisplay : Obligations.DrawFaultsBeforeTouchingTheDisplay := by
  intro x y n s
  refine ⟨fun hn hend => exec_draw_of_bytes_out ?bytesOut, fun hn hin hset hend => exec_draw_of_rows_out (.inr hin) ?rowsOut⟩
  case bytesOut =>
    unfold BytesFit
    omega
  case rowsOut =>
    simp only [RowsFit, hset, reduceCtorEq, false_or]
    omega

/-! ## The sprite, pixel by pixel (R152 to R157) -/

/-- A word is not zero exactly when it has a set bit. -/
theorem ne_zero_iff_exists_bit {w : Nat} (b : BitVec w) : b ≠ 0 ↔ ∃ c, c < w ∧ b.getLsbD c = true := by
  constructor
  · intro hne
    by_contra hno
    refine hne (BitVec.eq_of_getLsbD_eq fun c hc => .trans ?_ BitVec.getLsbD_zero.symm)
    exact Bool.eq_false_iff.mpr fun hbit => hno ⟨c, hc, hbit⟩
  · rintro ⟨c, -, hbit⟩ rfl
    simp at hbit

section
variable (s : State) (x0 y0 n : Nat) (r : Fin 32) (c : Nat)

/-- In a row of the sprite, the sprite's pixel is the bit of the row's word. -/
theorem spritePixel_of_row (h : y0 ≤ r.val ∧ r.val - y0 < (spriteBytes n s).length) (hc : c < 64) :
    spritePixel s x0 y0 n r c = (spriteRow (spriteBytes n s)[r.val - y0] x0).getLsbD c := by
  have hlt : r.val < y0 + n := by
    simp only [spriteBytes, List.length_map, List.length_range] at h
    omega
  rw [spriteRow_getLsbD]
  simp [spritePixel, spriteBytes, State.readByte, h.1, hlt, hc]

/-- Outside its rows the sprite has no pixel. -/
theorem spritePixel_of_no_row (h : ¬ (y0 ≤ r.val ∧ r.val - y0 < (spriteBytes n s).length)) :
    spritePixel s x0 y0 n r c = false := by
  have hno : ¬ (y0 ≤ r.val ∧ r.val < y0 + n) := by
    simp only [spriteBytes, List.length_map, List.length_range] at h
    omega
  by_cases hy : y0 ≤ r.val
  · simp [spritePixel, show ¬ r.val < y0 + n from fun hlt => hno ⟨hy, hlt⟩]
  · simp [spritePixel, hy]

end

section
variable (x y : Reg) (n : Nibble) (s : State)

/-- The pixel of the sprite a Draw writes, on the state it reads. -/
def drawPixel (r : Fin 32) (c : Nat) : Bool :=
  spritePixel s ((s.getV x).toNat % 64) ((s.getV y).toNat % 32) n.val r c

/-- Every pixel of the grid is XORed with the sprite's pixel there. -/
theorem drawnState_pixel (r : Fin 32) {c : Nat} (hc : c < 64) :
    (drawnState x y n s).pixel r c = (s.pixel r c ^^ drawPixel x y n s r c) := by
  change ((spriteWritten x y n s).1[r]).getLsbD c = _
  rw [spriteWritten, writeSprite, originCol_eq, originRow_eq, drawRows_getElem, drawPixel, State.pixel]
  split
  · next h => rw [BitVec.getLsbD_xor, spritePixel_of_row s _ _ _ r c h hc]
  · next h => rw [spritePixel_of_no_row s _ _ _ r c h, Bool.xor_false]

/-- The sprite collides exactly when some set pixel of the display is also one of the sprite. -/
theorem spriteWritten_collides :
    (spriteWritten x y n s).2 = true ↔
      ∃ (r : Fin 32) (c : Nat), c < 64 ∧ s.pixel r c = true ∧ drawPixel x y n s r c = true := by
  rw [spriteWritten, writeSprite, originCol_eq, originRow_eq, drawRows_collides]
  constructor
  · rintro ⟨r, h, hne⟩
    obtain ⟨c, hc, hbit⟩ := (ne_zero_iff_exists_bit _).mp hne
    rw [BitVec.getLsbD_and, Bool.and_eq_true] at hbit
    exact ⟨r, c, hc, hbit.1, (spritePixel_of_row s _ _ _ r c h hc).trans hbit.2⟩
  · rintro ⟨r, c, hc, hset, hsprite⟩
    have h : (s.getV y).toNat % 32 ≤ r.val ∧ r.val - (s.getV y).toNat % 32 < (spriteBytes n.val s).length := by
      by_contra hno
      rw [drawPixel, spritePixel_of_no_row s _ _ _ r c hno] at hsprite
      cases hsprite
    refine ⟨r, h, (ne_zero_iff_exists_bit _).mpr ⟨c, hc, ?_⟩⟩
    rw [BitVec.getLsbD_and, Bool.and_eq_true]
    exact ⟨hset, (spritePixel_of_row s _ _ _ r c h hc).symm.trans hsprite⟩

/-- VF holds the collision. -/
theorem drawnState_vf : (drawnState x y n s).getV VF = flagByte (spriteWritten x y n s).2 :=
  State.getV_setV_same _ _ _

/-- VF is 1 on a collision. -/
theorem drawnState_vf_eq_one_iff :
    (drawnState x y n s).getV VF = 1 ↔
      ∃ (r : Fin 32) (c : Nat), c < 64 ∧ s.pixel r c = true ∧ drawPixel x y n s r c = true := by
  rw [drawnState_vf, ← spriteWritten_collides]
  cases (spriteWritten x y n s).2 <;> decide

/-- VF is 0 without one. -/
theorem drawnState_vf_eq_zero
    (h : ∀ (r : Fin 32) (c : Nat), c < 64 → s.pixel r c = true → drawPixel x y n s r c = false) :
    (drawnState x y n s).getV VF = 0 := by
  have hno : (spriteWritten x y n s).2 = false := by
    rw [Bool.eq_false_iff, Ne, spriteWritten_collides]
    rintro ⟨r, c, hc, hset, hsprite⟩
    simp [h r c hc hset] at hsprite
  rw [drawnState_vf, hno]
  rfl

end

/-- Settles O44: the bytes and the rows fit, so Draw answers its drawn state. -/
theorem drawXorsTheSpritePixelByPixel : Obligations.DrawXorsTheSpritePixelByPixel := by
  intro x y n s hbytes hrows
  have hexec : exec (.draw x y n) s = .next (drawnState x y n s) :=
    exec_draw_of_fit (by simpa [BytesFit] using hbytes) (by simpa [RowsFit] using hrows)
  refine ⟨_, hexec, fun r c hc => drawnState_pixel x y n s r hc, (drawnState_vf_eq_one_iff x y n s).mpr,
    drawnState_vf_eq_zero x y n s, rfl, fun r hr => ?regs, fun _ => rfl, rfl, rfl, rfl, rfl, rfl, rfl, rfl⟩
  exact State.getV_setV_other _ _ fun h => hr (by simp [h])

/-- Displays with the same pixels are the same. -/
theorem display_ext {s t : State} (h : ∀ (r : Fin 32) (c : Nat), c < 64 → t.pixel r c = s.pixel r c) :
    t.display = s.display :=
  Vector.ext fun r hr => BitVec.eq_of_getLsbD_eq fun c hc => h ⟨r, hr⟩ c hc

/-- Settles O46: the second Draw reads the same bytes at the same place, and XORing twice is XORing nothing. -/
theorem drawingTwiceRestoresTheDisplay : Obligations.DrawingTwiceRestoresTheDisplay := by
  intro x y n s t h hx hy
  obtain ⟨hbytes, hrows, rfl⟩ := fit_of_exec_draw h
  have hrows' : RowsFit y n (drawnState x y n s) := by
    rw [RowsFit, hy]
    exact hrows
  have hsprite : ∀ r c, drawPixel x y n (drawnState x y n s) r c = drawPixel x y n s r c := by
    intro r c
    rw [drawPixel, hx, hy]
    rfl
  refine ⟨_, exec_draw_of_fit hbytes hrows', ?restored, fun hblank => ⟨?first, ?second⟩⟩
  case restored =>
    refine display_ext fun r c hc => ?_
    rw [drawnState_pixel _ _ _ _ r hc, drawnState_pixel _ _ _ _ r hc, hsprite, Bool.xor_assoc, Bool.xor_self, Bool.xor_false]
  case first => exact drawnState_vf_eq_zero x y n s fun r c _ hset => by simp [hblank] at hset
  case second =>
    have hdrawn : ∀ r c, c < 64 → (drawnState x y n s).pixel r c = drawPixel x y n s r c := by
      intro r c hc
      rw [drawnState_pixel x y n s r hc, hblank, Bool.false_xor]
    rw [drawnState_vf_eq_one_iff]
    constructor
    · rintro ⟨r, c, hc, -, hset⟩
      exact ⟨r, c, hc, (hsprite r c).symm.trans hset⟩
    · rintro ⟨r, c, hc, hset⟩
      exact ⟨r, c, hc, (hdrawn r c hc).trans hset, (hsprite r c).trans hset⟩

end Sys2Proof.Machine
end
